-- ==== Sys2Proof/Word.lean ====
section
/-! DEFINITION. The words of CTFJ: every register is 32 bits wide as the host sees it (R20), a payload byte has 8 bits. -/

namespace Sys2Proof

/-- A 32-bit word: a register as the host sees it, or a command word (R5 `REG_W`, R20, R80). -/
abbrev Word := BitVec 32

/-- An 8-bit value: a payload byte, an address, a priority, a data-length code (R32, R36, R38). -/
abbrev Byte := BitVec 8

end Sys2Proof
end

