-- ==== Sys2Proof/Config.lean ====
section
/-! DEFINITION. The implementation parameters of R5 (00_scope.md section 4): constants with one value each, and the nine
buffer-state codes the spec leaves OPEN. The widths of R5 (`REG_W`, `CLK_W`, `RATE_W` 32, `STD_ID_W` 11, `EXT_ID_W` 29, `PGN_W` 18,
`DLC_FIELD_W` 4, `PRIO_REG_W` and `DLC_REG_W` 8) are the widths of the bit vectors in Machine/State.lean. -/

namespace Sys2Proof.Config

/-- `NQ`: time quanta per bit (R5, R111). -/
abbrev nq : Nat := 16

/-- `PRESC_MIN`: smallest legal prescaler division factor (R5, R110). -/
abbrev prescMin : Nat := 1

/-- `PRESC_MAX`: largest legal prescaler division factor (R5, R110). -/
abbrev prescMax : Nat := 256

/-- `SYNC_LEN`: synchronisation segment, in quanta; never stored (R5, R112). -/
abbrev syncLen : Nat := 1

/-- `PROP_LEN`: propagation segment, in quanta (R5, R112). -/
abbrev propLen : Nat := 3

/-- `PSEG1_LEN`: phase segment 1, in quanta (R5, R112). -/
abbrev pseg1Len : Nat := 8

/-- `PSEG2_LEN`: phase segment 2, in quanta (R5, R112). -/
abbrev pseg2Len : Nat := 4

/-- `RJW_LEN`: resynchronisation jump width, in quanta (R5, R112). -/
abbrev rjwLen : Nat := 4

/-- `STD_ID_SHIFT`: left shift of a Standard identifier in the identifier word (R5, R132). -/
abbrev stdIdShift : Nat := 18

/-- `PAYLOAD_BYTES`: size of the payload buffer (R5, R32). -/
abbrev payloadBytes : Nat := 8

/-- `DLC_MAX`: largest legal data-length code on encode (R5, R130, R160). -/
abbrev dlcMax : Nat := 8

/-- `PRIO_MAX`: largest legal J1939 priority (R5, R160). -/
abbrev prioMax : Nat := 7

/-- `PDU2_MIN_PF`: smallest PDU-format byte that selects PDU2 (R5, R162, R167). -/
abbrev pdu2MinPf : Nat := 240

/-- `BROADCAST`: the broadcast destination sentinel (R5, R167). -/
abbrev broadcast : Byte := 255#8

/-! The buffer-state codes: OPEN parameters (R5, R90, decision D33). The document names them and numbers none; no rule of CTFJ
reads one, so no definition of the model does (log entry 6). They have no body: no proof can see a number. -/

/-- Transmit buffer state Inactive. -/
opaque codeTxInactive : BitVec 4
/-- Transmit buffer state Abort. -/
opaque codeTxAbort : BitVec 4
/-- Transmit buffer state Data. -/
opaque codeTxData : BitVec 4
/-- Transmit buffer state Answer. -/
opaque codeTxAnswer : BitVec 4
/-- Receive buffer state Inactive. -/
opaque codeRxInactive : BitVec 4
/-- Receive buffer state Empty. -/
opaque codeRxEmpty : BitVec 4
/-- Receive buffer state Full. -/
opaque codeRxFull : BitVec 4
/-- Receive buffer state Busy. -/
opaque codeRxBusy : BitVec 4
/-- Receive buffer state Overrun. -/
opaque codeRxOverrun : BitVec 4

end Sys2Proof.Config
end

