-- ==== Sys2Proof/Syntax.lean ====
section
/-! DEFINITION. The seven commands of CTFJ (R2, R81; spec/opcode_table.json), one constructor per row. No command carries an
operand (R82). -/

namespace Sys2Proof

/-- A command of CTFJ, as the opcode map R81 lists them. -/
inductive Instr where
  /-- NOP, opcode 0 (R191). -/
  | nop
  /-- TIMING, opcode 1 (R115). -/
  | timing
  /-- FENC, opcode 2 (R134). -/
  | fenc
  /-- FDEC, opcode 3 (R139). -/
  | fdec
  /-- JENC, opcode 4 (R164). -/
  | jenc
  /-- JDEC, opcode 5 (R168). -/
  | jdec
  /-- CLR, opcode 6 (R192). -/
  | clr
  deriving DecidableEq, Repr

end Sys2Proof
end

