-- ==== Sys2Proof/WellFormed.lean ====
section
/-! DEFINITION. Well-formedness. A command has no field (R82), so no term of `Instr` is ill formed; the checks the spec makes are on
the 32-bit command word (R80, R83). -/

namespace Sys2Proof

/-- The well-formedness of a command: R82 gives it no operand that could be out of range. -/
def Instr.wf : Instr → Bool
  | .nop => true
  | .timing => true
  | .fenc => true
  | .fdec => true
  | .jenc => true
  | .jdec => true
  | .clr => true

/-- First check of a command word: bits [31:4] are zero (R80, R83). -/
def upperBitsZero (w : Word) : Bool := w.extractLsb' 4 28 == 0#28

/-- Second check of a command word: the opcode field [3:0] is below 7 (R81, R83). -/
def opcodeAssigned (w : Word) : Bool := (w.extractLsb' 0 4).toNat < 7

/-- A legal command word passes both checks; R83 calls every other word illegal. -/
def legalWord (w : Word) : Bool := upperBitsZero w && opcodeAssigned w

end Sys2Proof
end

