-- ==== Sys2Proof/Decode.lean ====
section
/-! DEFINITION. The command word (R80 to R84): the decoder, total on every 32-bit word, rejecting by name; the encoder; and the
decoder as spec/opcode_table.json numbers its bits. The word is the data of the CMD write itself (R72), so no byte order is
involved (R65). -/

namespace Sys2Proof

/-- Why a word is no command (R83). Both reasons end in the same error completion (R193). -/
inductive IllegalWord where
  /-- Bits [31:4] are not zero. -/
  | upperBitsSet
  /-- Bits [31:4] are zero and the opcode is 7 to 15. -/
  | reservedOpcode
  deriving DecidableEq, Repr

/-- The opcode field of a command word, `w[3:0]` (R80). -/
def opcodeField (w : Word) : BitVec 4 := w.extractLsb' 0 4

/-- The command a word encodes (R80, R81), or why it is illegal (R83). The upper bits are checked first. -/
def decode (w : Word) : Except IllegalWord Instr :=
  if w.extractLsb' 4 28 ≠ 0#28 then .error .upperBitsSet
  else match (opcodeField w).toNat with
    | 0 => .ok .nop
    | 1 => .ok .timing
    | 2 => .ok .fenc
    | 3 => .ok .fdec
    | 4 => .ok .jenc
    | 5 => .ok .jdec
    | 6 => .ok .clr
    | _ => .error .reservedOpcode

/-- The opcode of a command, the first column of R81. -/
def Instr.opcode : Instr → BitVec 4
  | .nop => 0x0#4
  | .timing => 0x1#4
  | .fenc => 0x2#4
  | .fdec => 0x3#4
  | .jenc => 0x4#4
  | .jdec => 0x5#4
  | .clr => 0x6#4

/-- The command word of a command: zero in [31:4], the opcode in [3:0] (R80). -/
def encode (i : Instr) : Word := 0#28 ++ i.opcode

/-- The command a table row's word decodes to: bit 0 is the least significant bit of the one 32-bit word (R80); bits above `nbits`
are zero; a row longer than one word is no command (R84). -/
def decodeTableWord (nbits w : Nat) : Option Instr :=
  if 32 < nbits then none
  else match decode (BitVec.ofNat 32 (w % 2 ^ nbits)) with
    | .ok i => some i
    | .error _ => none

end Sys2Proof
end

