-- ==== Sys2Proof/Machine/State.lean ====
section
/-! DEFINITION. The state of the machine as plain data: the block's registers of R20, each kept bit once, and the host's side of the
port (the cycles still to come and the values read). Also the reasons a step can stop, and the state after reset. -/

namespace Sys2Proof.Machine

/-- STATUS, index 1 (R22). -/
structure Status where
  /-- [3:0] result code of the most recent command. -/
  code : BitVec 4
  /-- [7:4] the low nibble of the most recent command word, legal or not. -/
  lastop : BitVec 4
  /-- [8] sticky error. -/
  serr : Bool
  deriving DecidableEq, Repr

/-- TQ_PRESC, index 5 (R26). -/
structure TqPresc where
  /-- [8:0] prescaler division factor. -/
  presc : BitVec 9
  /-- [16] the clock is not an exact multiple of 16 times the bit rate. -/
  inexact : Bool
  /-- [31:24] the division factor minus one. -/
  prescCode : Byte
  deriving DecidableEq, Repr

/-- A TimingConfig is the content of TQ_RATE, TQ_PRESC, TQ_LEN and TQ_CODE (R10, R25 to R28). -/
structure TimingConfig where
  /-- TQ_RATE, index 4. -/
  rate : Word
  /-- TQ_PRESC, index 5. -/
  presc : TqPresc
  /-- TQ_LEN, index 6: rjw, pseg2, pseg1, prop lengths from the top byte down (R27). -/
  len : Word
  /-- TQ_CODE, index 7: the same four minus one (R28). -/
  code : Word
  deriving DecidableEq, Repr

/-- FR_CTL, index 9 (R30). -/
structure FrCtl where
  /-- [7:0] data-length code. -/
  dlc : Byte
  /-- [8] identifier width: false is 0, Standard; true is 1, Extended. -/
  ide : Bool
  /-- [15:12] buffer-state code. -/
  code : BitVec 4
  deriving DecidableEq, Repr

/-- FR_RX, index 10 (R31). -/
structure FrRx where
  /-- [15:0] receive timestamp, an opaque counter value. -/
  ts : BitVec 16
  /-- [16] remote-request. -/
  rtr : Bool
  /-- [17] substitute-remote-request. -/
  srr : Bool
  deriving DecidableEq, Repr

/-- A Frame (R9): FR_ID, FR_CTL, FR_RX and PAY0 to PAY7. -/
structure Frame where
  /-- FR_ID, index 8, bits [28:0] (R29). -/
  id : BitVec 29
  /-- FR_CTL, index 9. -/
  ctl : FrCtl
  /-- FR_RX, index 10. -/
  rx : FrRx
  /-- PAY0 to PAY7, indices 12 to 19 (R32). -/
  pay : Vector Byte 8
  deriving DecidableEq, Repr

/-- A MailboxImage (R12): the four words of the register-mapped mailbox. -/
structure MailboxImage where
  /-- MB_CS, index 20, control/status word (R33, R85). -/
  cs : Word
  /-- MB_ID, index 21, identifier word (R34, R86). -/
  id : Word
  /-- MB_D0, index 22, payload bytes 0 to 3 (R35, R87). -/
  d0 : Word
  /-- MB_D1, index 23, payload bytes 4 to 7 (R35, R87). -/
  d1 : Word
  deriving DecidableEq, Repr

/-- The J1939 fields (R11): J_PRIO, J_PGN, J_SA, J_DA. -/
structure J1939Fields where
  /-- J_PRIO, index 24, bits [7:0] (R36). -/
  prio : Byte
  /-- J_PGN, index 25, bits [17:0] (R37). -/
  pgn : BitVec 18
  /-- J_SA, index 26, bits [7:0] (R38). -/
  sa : Byte
  /-- J_DA, index 27, bits [7:0] (R39). -/
  da : Byte
  deriving DecidableEq, Repr

/-- The architectural state of CTFJ (R20): the 26 registers that hold a value. CMD and the reserved indices hold nothing. -/
structure Regs where
  /-- STATUS, index 1. -/
  status : Status
  /-- CLK_HZ, index 2 (R23). -/
  clkHz : Word
  /-- BITRATE, index 3 (R24). -/
  bitrate : Word
  /-- TQ_RATE, TQ_PRESC, TQ_LEN, TQ_CODE, indices 4 to 7. -/
  tq : TimingConfig
  /-- FR_ID, FR_CTL, FR_RX, PAY0 to PAY7, indices 8 to 10 and 12 to 19. -/
  fr : Frame
  /-- MB_CS, MB_ID, MB_D0, MB_D1, indices 20 to 23. -/
  mb : MailboxImage
  /-- J_PRIO, J_PGN, J_SA, J_DA, indices 24 to 27. -/
  j : J1939Fields
  deriving DecidableEq, Repr

/-- The inputs of the block over one clock cycle (R60). -/
structure Cycle where
  /-- `rst`: synchronous reset. -/
  rst : Bool
  /-- `h_valid`: the host performs a transaction. -/
  valid : Bool
  /-- `h_write`: the transaction is a write. -/
  write : Bool
  /-- `h_addr`: word index 0 to 31. -/
  addr : BitVec 5
  /-- `h_wdata`: write data, ignored in a read. -/
  wdata : Word
  deriving DecidableEq, Repr

/-- The machine: the block, and the host that drives its port. -/
structure State where
  /-- The block's registers, all the state the spec gives it (R20, R47). -/
  regs : Regs
  /-- The MODEL's own field: the cycles the host has still to put on the port, next first (R43; log entry 1). -/
  script : List Cycle
  /-- The MODEL's own field: the values the host's reads returned, oldest first (R91; log entry 2). -/
  reads : List Word
  deriving DecidableEq, Repr

/-- A register of R20 by name. -/
inductive Reg where
  | cmd | status | clkHz | bitrate | tqRate | tqPresc | tqLen | tqCode | frId | frCtl | frRx
  | pay (k : Fin 8)
  | mbCs | mbId | mbD0 | mbD1 | jPrio | jPgn | jSa | jDa
  deriving DecidableEq, Repr

/-- The access right of a register (R20). -/
inductive Access where
  /-- RW: the host reads and writes it. -/
  | rw
  /-- RO: the host reads it, host writes are ignored. -/
  | ro
  /-- WO: a host write has an effect and a host read returns 0. -/
  | wo
  deriving DecidableEq, Repr

/-- The result codes by name (R200). CTFJ produces `ok`, `invalidParameter` and `error` only. -/
inductive ResultCode where
  | ok | invalidParameter | error | notInitialized | busy | timeout | noMessage
  deriving DecidableEq, Repr

/-- Why the machine stops with a fault: never. The block never hangs and never traps (R7), every command terminates and every
transaction completes (R190, U18), and every index is answered (R40), so the type has no constructor (log entry 10). -/
inductive Fault where
  deriving DecidableEq, Repr

/-- Why a step has no meaning. -/
inductive Refusal where
  /-- Raised by an arm of `exec` whose instruction has no meaning yet, by its mnemonic; no arm raises it now. Safe: the machine
  stops where the hardware goes on. -/
  | notModelled (mnemonic : String)
  deriving DecidableEq, Repr

/-- Every register at its reset value, zero (R46, R230). -/
def Regs.reset : Regs where
  status := { code := 0#4, lastop := 0#4, serr := false }
  clkHz := 0#32
  bitrate := 0#32
  tq := { rate := 0#32, presc := { presc := 0#9, inexact := false, prescCode := 0#8 }, len := 0#32, code := 0#32 }
  fr :=
    { id := 0#29
      ctl := { dlc := 0#8, ide := false, code := 0#4 }
      rx := { ts := 0#16, rtr := false, srr := false }
      pay := #v[0#8, 0#8, 0#8, 0#8, 0#8, 0#8, 0#8, 0#8] }
  mb := { cs := 0#32, id := 0#32, d0 := 0#32, d1 := 0#32 }
  j := { prio := 0#8, pgn := 0#18, sa := 0#8, da := 0#8 }

/-- The machine right after reset: every register zero (R46, R230); the host has nothing to send and has read nothing (DESIGN
CHOICE, log entries 1 and 2). -/
def State.reset : State where
  regs := Regs.reset
  script := []
  reads := []

end Sys2Proof.Machine
end

