-- ==== Sys2Proof/Machine/Operands.lean ====
section
/-! DEFINITION. Where every field stands in a 32-bit word: the registers with fields (R22, R26, R30, R31), the control/status word
(R85), the identifier word (R86), the payload words (R87), the J1939 identifier (R88) and the PGN (R89). `v[hi:lo]` of the spec is
`v.extractLsb' lo (hi - lo + 1)`, `v[i]` is `v.getLsbD i`. -/

namespace Sys2Proof.Machine

/-- A one-bit value as a `w`-bit number, 0 or 1. -/
def flagBit (w : Nat) (b : Bool) : BitVec w := (BitVec.ofBool b).setWidth w

/-! ### Registers with fields, as the host sees them -/

/-- STATUS (R22): code [3:0], lastop [7:4], serr [8], the rest 0. -/
def Status.toWord (x : Status) : Word :=
  x.code.setWidth 32 ||| (x.lastop.setWidth 32 <<< 4) ||| (flagBit 32 x.serr <<< 8)

/-- TQ_PRESC (R26): presc [8:0], inexact [16], presc_code [31:24], the rest 0. -/
def TqPresc.toWord (x : TqPresc) : Word :=
  x.presc.setWidth 32 ||| (flagBit 32 x.inexact <<< 16) ||| (x.prescCode.setWidth 32 <<< 24)

/-- FR_CTL (R30): dlc [7:0], ide [8], code [15:12], the rest 0. -/
def FrCtl.toWord (x : FrCtl) : Word :=
  x.dlc.setWidth 32 ||| (flagBit 32 x.ide <<< 8) ||| (x.code.setWidth 32 <<< 12)

/-- The fields of a word written to FR_CTL (R30). -/
def FrCtl.ofWord (v : Word) : FrCtl :=
  { dlc := v.extractLsb' 0 8, ide := v.getLsbD 8, code := v.extractLsb' 12 4 }

/-- FR_RX (R31): ts [15:0], rtr [16], srr [17], the rest 0. -/
def FrRx.toWord (x : FrRx) : Word :=
  x.ts.setWidth 32 ||| (flagBit 32 x.rtr <<< 16) ||| (flagBit 32 x.srr <<< 17)

/-! ### Four bytes in a word -/

/-- A word from four bytes, `b3` in [31:24] down to `b0` in [7:0]. -/
def wordOfBytes (b3 b2 b1 b0 : Byte) : Word :=
  (b3.setWidth 32 <<< 24) ||| (b2.setWidth 32 <<< 16) ||| (b1.setWidth 32 <<< 8) ||| b0.setWidth 32

/-! ### Control/status word (R85) -/

/-- The CS word that encode writes (R131): CODE [27:24], SRR [22] = IDE [21] = ide, DLC [19:16], every other bit 0. -/
def csWord (code : BitVec 4) (ide : Bool) (dlc : Byte) : Word :=
  (code.setWidth 32 <<< 24) ||| (flagBit 32 ide <<< 22) ||| (flagBit 32 ide <<< 21) ||| (dlc.setWidth 32 <<< 16)

/-- CODE, bits [27:24]. -/
def csCode (cs : Word) : BitVec 4 := cs.extractLsb' 24 4

/-- SRR, bit 22. -/
def csSrr (cs : Word) : Bool := cs.getLsbD 22

/-- IDE, bit 21: the one bit that decides the identifier width on decode (R135). -/
def csIde (cs : Word) : Bool := cs.getLsbD 21

/-- RTR, bit 20. -/
def csRtr (cs : Word) : Bool := cs.getLsbD 20

/-- DLC, bits [19:16]. -/
def csDlc (cs : Word) : BitVec 4 := cs.extractLsb' 16 4

/-- TIMESTAMP, bits [15:0]. -/
def csTimestamp (cs : Word) : BitVec 16 := cs.extractLsb' 0 16

/-! ### Identifier word (R86) -/

/-- The identifier word on encode (R132): Extended, the 29 bits; Standard, `id[10:0] << 18`. -/
def idWord (ide : Bool) (id : BitVec 29) : Word :=
  if ide then id.setWidth 32 else (id.extractLsb' 0 11).setWidth 32 <<< Config.stdIdShift

/-- The identifier on decode (R136): Extended, `idw[28:0]`; Standard, `idw[28:18]` zero-extended. -/
def idOfWord (ide : Bool) (idw : Word) : BitVec 29 :=
  if ide then idw.extractLsb' 0 29 else (idw.extractLsb' 18 11).setWidth 29

/-! ### Payload words (R87), big-endian (R65) -/

/-- Byte `k` of a payload word, `k` = 0 the most significant. -/
def payloadByte (w : Word) (k : Fin 4) : Byte := w.extractLsb' (24 - 8 * k.val) 8

/-! ### J1939 identifier (R88) and PGN (R89) -/

/-- The PDU-format byte of a PGN, `pgn[15:8]` (R161). -/
def pgnPf (pgn : BitVec 18) : Byte := pgn.extractLsb' 8 8

/-- The data page of a PGN, `pgn[16]` (R161). -/
def pgnDp (pgn : BitVec 18) : Bool := pgn.getLsbD 16

/-- The eighteenth bit of a PGN, `pgn[17]` (R161). -/
def pgnR (pgn : BitVec 18) : Bool := pgn.getLsbD 17

/-- The group extension of a PGN, `pgn[7:0]` (R161). -/
def pgnGe (pgn : BitVec 18) : Byte := pgn.extractLsb' 0 8

/-- A PGN from its parts (R89, R167). -/
def pgnOf (r dp : Bool) (pf low : Byte) : BitVec 18 :=
  (flagBit 18 r <<< 17) ||| (flagBit 18 dp <<< 16) ||| (pf.setWidth 18 <<< 8) ||| low.setWidth 18

/-- The 29-bit identifier from its fields (R163). -/
def idOfFields (prio : Byte) (r dp : Bool) (pf ps sa : Byte) : BitVec 29 :=
  ((prio.extractLsb' 0 3).setWidth 29 <<< 26) ||| (flagBit 29 r <<< 25) ||| (flagBit 29 dp <<< 24) |||
    (pf.setWidth 29 <<< 16) ||| (ps.setWidth 29 <<< 8) ||| sa.setWidth 29

/-- Priority, `id[28:26]`, zero-extended (R166, R168). -/
def idPrio (id : BitVec 29) : Byte := (id.extractLsb' 26 3).setWidth 8

/-- `id[25]` (R166). -/
def idR (id : BitVec 29) : Bool := id.getLsbD 25

/-- Data page, `id[24]` (R166). -/
def idDp (id : BitVec 29) : Bool := id.getLsbD 24

/-- PDU-format byte, `id[23:16]` (R166). -/
def idPf (id : BitVec 29) : Byte := id.extractLsb' 16 8

/-- PDU-specific byte, `id[15:8]` (R166). -/
def idPs (id : BitVec 29) : Byte := id.extractLsb' 8 8

/-- Source address, `id[7:0]` (R166). -/
def idSa (id : BitVec 29) : Byte := id.extractLsb' 0 8

end Sys2Proof.Machine
end

