-- ==== Sys2Proof/Machine/Flags.lean ====
section
/-! DEFINITION. The single-bit values of R44 and how each is computed: `serr` on success and on error (R202, R203), `inexact` (R114).
The flags `ide`, `rtr` and `srr` are copies of bits of the control/status word (`csIde`, `csRtr`, `csSrr` of Operands.lean) or the
constant that JENC writes. R44 says that no command reads a flag, while R42, R134 and R168 let FENC and JDEC read FR_CTL.ide; the
model follows those (log entry 7). -/

namespace Sys2Proof.Machine

/-- The sticky error after a command that completes Ok: it keeps its value (R203). -/
def serrAfterOk (x : Status) : Bool := x.serr

/-- The sticky error after an error completion: set (R202). -/
def serrAfterError : Bool := true

/-- The inexact flag of a successful TIMING: `clk mod (bps * 16) != 0`, exact arithmetic (R114). -/
def inexactFlag (clk bps : Word) : Bool := decide (clk.toNat % (bps.toNat * Config.nq) ≠ 0)

/-- The identifier-width flag that JENC writes: Extended (R164). -/
def ideAfterJenc : Bool := true

end Sys2Proof.Machine
end

