-- ==== Sys2Proof/Machine/Ops.lean ====
section
/-! DEFINITION. The named operations of the block: the register table (R20) with its indices, access rights and kept bits, the host's
read (R62) and write (R63, R41) of a register, the completion of a command with Ok (R203) or with an error (R202, the block's trap
entry), and reset (R230). There is no return from an error (R206): nothing was saved. -/

namespace Sys2Proof.Machine

/-! ### The register table -/

/-- The register at a word index, none at a reserved index (R20, R40). -/
def Reg.ofIndex (i : BitVec 5) : Option Reg :=
  match i.toNat with
  | 0 => some .cmd
  | 1 => some .status
  | 2 => some .clkHz
  | 3 => some .bitrate
  | 4 => some .tqRate
  | 5 => some .tqPresc
  | 6 => some .tqLen
  | 7 => some .tqCode
  | 8 => some .frId
  | 9 => some .frCtl
  | 10 => some .frRx
  | 12 => some (.pay 0)
  | 13 => some (.pay 1)
  | 14 => some (.pay 2)
  | 15 => some (.pay 3)
  | 16 => some (.pay 4)
  | 17 => some (.pay 5)
  | 18 => some (.pay 6)
  | 19 => some (.pay 7)
  | 20 => some .mbCs
  | 21 => some .mbId
  | 22 => some .mbD0
  | 23 => some .mbD1
  | 24 => some .jPrio
  | 25 => some .jPgn
  | 26 => some .jSa
  | 27 => some .jDa
  | _ => none

/-- The word index of a register (R20). -/
def Reg.index : Reg → BitVec 5
  | .cmd => 0#5
  | .status => 1#5
  | .clkHz => 2#5
  | .bitrate => 3#5
  | .tqRate => 4#5
  | .tqPresc => 5#5
  | .tqLen => 6#5
  | .tqCode => 7#5
  | .frId => 8#5
  | .frCtl => 9#5
  | .frRx => 10#5
  | .pay k => BitVec.ofNat 5 (12 + k.val)
  | .mbCs => 20#5
  | .mbId => 21#5
  | .mbD0 => 22#5
  | .mbD1 => 23#5
  | .jPrio => 24#5
  | .jPgn => 25#5
  | .jSa => 26#5
  | .jDa => 27#5

/-- The access right of a register (R20). -/
def Reg.access : Reg → Access
  | .cmd => .wo
  | .status => .ro
  | .clkHz => .rw
  | .bitrate => .rw
  | .tqRate => .ro
  | .tqPresc => .ro
  | .tqLen => .ro
  | .tqCode => .ro
  | .frId => .rw
  | .frCtl => .rw
  | .frRx => .ro
  | .pay _ => .rw
  | .mbCs => .rw
  | .mbId => .rw
  | .mbD0 => .rw
  | .mbD1 => .rw
  | .jPrio => .rw
  | .jPgn => .rw
  | .jSa => .rw
  | .jDa => .rw

/-- The bits a register keeps (R20, R41). -/
def Reg.keep : Reg → Word
  | .cmd => 0x00000000#32
  | .status => 0x000001FF#32
  | .clkHz => 0xFFFFFFFF#32
  | .bitrate => 0xFFFFFFFF#32
  | .tqRate => 0xFFFFFFFF#32
  | .tqPresc => 0xFF0101FF#32
  | .tqLen => 0xFFFFFFFF#32
  | .tqCode => 0xFFFFFFFF#32
  | .frId => 0x1FFFFFFF#32
  | .frCtl => 0x0000F1FF#32
  | .frRx => 0x0003FFFF#32
  | .pay _ => 0x000000FF#32
  | .mbCs => 0xFFFFFFFF#32
  | .mbId => 0xFFFFFFFF#32
  | .mbD0 => 0xFFFFFFFF#32
  | .mbD1 => 0xFFFFFFFF#32
  | .jPrio => 0x000000FF#32
  | .jPgn => 0x0003FFFF#32
  | .jSa => 0x000000FF#32
  | .jDa => 0x000000FF#32

/-- The 32-bit value of a register as the host reads it; CMD reads 0 (R20, R21). -/
def Regs.get (r : Regs) : Reg → Word
  | .cmd => 0#32
  | .status => r.status.toWord
  | .clkHz => r.clkHz
  | .bitrate => r.bitrate
  | .tqRate => r.tq.rate
  | .tqPresc => r.tq.presc.toWord
  | .tqLen => r.tq.len
  | .tqCode => r.tq.code
  | .frId => r.fr.id.setWidth 32
  | .frCtl => r.fr.ctl.toWord
  | .frRx => r.fr.rx.toWord
  | .pay k => r.fr.pay[k].setWidth 32
  | .mbCs => r.mb.cs
  | .mbId => r.mb.id
  | .mbD0 => r.mb.d0
  | .mbD1 => r.mb.d1
  | .jPrio => r.j.prio.setWidth 32
  | .jPgn => r.j.pgn.setWidth 32
  | .jSa => r.j.sa.setWidth 32
  | .jDa => r.j.da.setWidth 32

/-- The effect of a host write of a value that is already masked: an RW register takes it, an RO register ignores it, and CMD stores
nothing (R41, R21). -/
def Regs.store (r : Regs) (x : Reg) (m : Word) : Regs :=
  match x with
  | .cmd => r
  | .status => r
  | .clkHz => { r with clkHz := m }
  | .bitrate => { r with bitrate := m }
  | .tqRate => r
  | .tqPresc => r
  | .tqLen => r
  | .tqCode => r
  | .frId => { r with fr := { r.fr with id := m.setWidth 29 } }
  | .frCtl => { r with fr := { r.fr with ctl := FrCtl.ofWord m } }
  | .frRx => r
  | .pay k => { r with fr := { r.fr with pay := r.fr.pay.set k (m.setWidth 8) } }
  | .mbCs => { r with mb := { r.mb with cs := m } }
  | .mbId => { r with mb := { r.mb with id := m } }
  | .mbD0 => { r with mb := { r.mb with d0 := m } }
  | .mbD1 => { r with mb := { r.mb with d1 := m } }
  | .jPrio => { r with j := { r.j with prio := m.setWidth 8 } }
  | .jPgn => { r with j := { r.j with pgn := m.setWidth 18 } }
  | .jSa => { r with j := { r.j with sa := m.setWidth 8 } }
  | .jDa => { r with j := { r.j with da := m.setWidth 8 } }

/-- `x[i]`, the value the host reads at index `i`: 0 at a reserved index (R62, R40). -/
def readIndex (r : Regs) (i : BitVec 5) : Word :=
  match Reg.ofIndex i with
  | some x => r.get x
  | none => 0#32

/-- A host write of `v` to index `i` other than 0: `v & keep` in an RW register, nothing anywhere else (R41, R63). -/
def writeIndex (r : Regs) (i : BitVec 5) (v : Word) : Regs :=
  match Reg.ofIndex i with
  | some x => r.store x (v &&& x.keep)
  | none => r

/-- `h_rdata`: in every cycle the register at `h_addr` as it stands before the clock edge (R60). -/
def hRdata (r : Regs) (c : Cycle) : Word := readIndex r c.addr

/-! ### Completion of a command -/

/-- The number of a result code in STATUS.code (R200). -/
def ResultCode.number : ResultCode → BitVec 4
  | .ok => 0#4
  | .invalidParameter => 1#4
  | .error => 2#4
  | .notInitialized => 3#4
  | .busy => 4#4
  | .timeout => 5#4
  | .noMessage => 6#4

/-- Error completion (R202): code, sticky error and last opcode; nothing else. -/
def errorCompletion (op : BitVec 4) (c : ResultCode) (r : Regs) : Regs :=
  { r with status := { code := c.number, lastop := op, serr := serrAfterError } }

/-- Success (R203): the command's writes, code 0 and the last opcode; the sticky error keeps the value it had in `r`, the state
before the step. -/
def okCompletion (op : BitVec 4) (r writes : Regs) : Regs :=
  { writes with status := { code := ResultCode.ok.number, lastop := op, serr := serrAfterOk r.status } }

/-- The end of the command step (R190): a body's result is `.ok` of the registers with its writes made, or `.error` of the code it
raised. -/
def completeCommand (op : BitVec 4) (r : Regs) (result : Except ResultCode Regs) : Regs :=
  match result with
  | .ok writes => okCompletion op r writes
  | .error c => errorCompletion op c r

/-- The machine with other registers; the host's side stays. -/
def State.withRegs (s : State) (r : Regs) : State := { s with regs := r }

/-- The command step for a body's result: always a next state (R190). -/
def finishCommand (op : BitVec 4) (s : State) (result : Except ResultCode Regs) : Host.Outcome State Fault Refusal :=
  .next (s.withRegs (completeCommand op s.regs result))

/-- Reset of the block: every register at its reset value (R230); also what CLR does (R231). The host's side is not the block's
(log entry 5). -/
def State.resetBlock (s : State) : State := s.withRegs Regs.reset

/-! ### The host's side of the port -/

/-- The host's record of a read transaction's value (R91; log entry 2). -/
def State.recordRead (s : State) (v : Word) : State := { s with reads := s.reads ++ [v] }

/-- The host goes on to the cycles that are left (R43; log entry 1). -/
def State.withScript (s : State) (cs : List Cycle) : State := { s with script := cs }

/-- A cycle in which the host reads index `i` (R62). -/
def hostRead (i : BitVec 5) : Cycle := { rst := false, valid := true, write := false, addr := i, wdata := 0#32 }

/-- A cycle in which the host writes `v` to index `i` (R63). -/
def hostWrite (i : BitVec 5) (v : Word) : Cycle := { rst := false, valid := true, write := true, addr := i, wdata := v }

end Sys2Proof.Machine
end

