-- ==== Sys2Proof/Machine/FrameCodec.lean ====
section
/-! DEFINITION. The Frame Codec, register-mapped representation, and the commands FENC and FDEC (41_frame_codec.md). -/

namespace Sys2Proof.Machine

/-- Payload byte `k` as encode packs it: 0x00 at index dlc and above (R133). -/
def packedByte (dlc : Byte) (pay : Vector Byte 8) (k : Fin 8) : Byte := if k.val < dlc.toNat then pay[k] else 0#8

/-- `frame_encode` (R130 to R133): fails exactly when dlc is above 8. -/
def frameEncode (id : BitVec 29) (ide : Bool) (dlc : Byte) (pay : Vector Byte 8) (code : BitVec 4) :
    Except ResultCode MailboxImage :=
  if Config.dlcMax < dlc.toNat then .error .invalidParameter
  else .ok
    { cs := csWord code ide dlc
      id := idWord ide id
      d0 := wordOfBytes (packedByte dlc pay 0) (packedByte dlc pay 1) (packedByte dlc pay 2) (packedByte dlc pay 3)
      d1 := wordOfBytes (packedByte dlc pay 4) (packedByte dlc pay 5) (packedByte dlc pay 6) (packedByte dlc pay 7) }

/-- `frame_decode` (R135 to R138): total; the width is `cs[21]` and nothing else. -/
def frameDecode (m : MailboxImage) : Frame where
  id := idOfWord (csIde m.cs) m.id
  ctl := { dlc := (csDlc m.cs).setWidth 8, ide := csIde m.cs, code := csCode m.cs }
  rx := { ts := csTimestamp m.cs, rtr := csRtr m.cs, srr := csSrr m.cs }
  pay :=
    #v[payloadByte m.d0 0, payloadByte m.d0 1, payloadByte m.d0 2, payloadByte m.d0 3,
      payloadByte m.d1 0, payloadByte m.d1 1, payloadByte m.d1 2, payloadByte m.d1 3]

/-- The body of FENC (R134): reads FR_ID, FR_CTL and PAY0 to PAY7, writes the four MB registers on Ok. -/
def fencBody (r : Regs) : Except ResultCode Regs :=
  match frameEncode r.fr.id r.fr.ctl.ide r.fr.ctl.dlc r.fr.pay r.fr.ctl.code with
  | .ok m => .ok { r with mb := m }
  | .error e => .error e

/-- The body of FDEC (R139): reads the four MB registers, writes FR_ID, FR_CTL, FR_RX and PAY0 to PAY7; it cannot fail. -/
def fdecBody (r : Regs) : Except ResultCode Regs := .ok { r with fr := frameDecode r.mb }

/-- FENC (R134). -/
def execFenc (s : State) : Host.Outcome State Fault Refusal :=
  finishCommand (Instr.opcode .fenc) s (fencBody s.regs)

/-- FDEC (R139). -/
def execFdec (s : State) : Host.Outcome State Fault Refusal :=
  finishCommand (Instr.opcode .fdec) s (fdecBody s.regs)

end Sys2Proof.Machine
end

