-- ==== Sys2Proof/Machine/J1939.lean ====
section
/-! DEFINITION. The J1939 identifier fields and the commands JENC and JDEC (42_j1939.md). -/

namespace Sys2Proof.Machine

/-- The PDU selection: PDU1, point-to-point, when the PDU-format byte is below 240; PDU2, broadcast, from 240 on (R162, R167). -/
def isPdu1 (pf : Byte) : Bool := decide (pf.toNat < Config.pdu2MinPf)

/-- The PDU-specific byte on encode (R162). -/
def pduSpecific (pgn : BitVec 18) (da : Byte) : Byte := if isPdu1 (pgnPf pgn) then da else pgnGe pgn

/-- `j1939_encode` (R160 to R163): fails exactly when the priority is above 7 or dlc is above 8. -/
def j1939Encode (prio : Byte) (pgn : BitVec 18) (sa da dlc : Byte) : Except ResultCode (BitVec 29) :=
  if Config.prioMax < prio.toNat ∨ Config.dlcMax < dlc.toNat then .error .invalidParameter
  else .ok (idOfFields prio (pgnR pgn) (pgnDp pgn) (pgnPf pgn) (pduSpecific pgn da) sa)

/-- The PGN on decode: the group extension is folded back in PDU2 only (R167). -/
def decodedPgn (id : BitVec 29) : BitVec 18 :=
  pgnOf (idR id) (idDp id) (idPf id) (if isPdu1 (idPf id) then 0#8 else idPs id)

/-- The destination on decode: the PDU-specific byte in PDU1, the broadcast sentinel in PDU2 (R167). -/
def decodedDa (id : BitVec 29) : Byte := if isPdu1 (idPf id) then idPs id else Config.broadcast

/-- `j1939_decode` (R165 to R167): fails, with Error, exactly when the Frame is Standard. -/
def j1939Decode (id : BitVec 29) (ide : Bool) : Except ResultCode J1939Fields :=
  if ide then .ok { prio := idPrio id, pgn := decodedPgn id, sa := idSa id, da := decodedDa id }
  else .error .error

/-- The body of JENC (R164): reads the J registers and FR_CTL.dlc, writes FR_ID and FR_CTL.ide on Ok. -/
def jencBody (r : Regs) : Except ResultCode Regs :=
  match j1939Encode r.j.prio r.j.pgn r.j.sa r.j.da r.fr.ctl.dlc with
  | .ok id => .ok { r with fr := { r.fr with id := id, ctl := { r.fr.ctl with ide := ideAfterJenc } } }
  | .error e => .error e

/-- The body of JDEC (R168): reads FR_ID and FR_CTL.ide, writes the J registers on Ok. -/
def jdecBody (r : Regs) : Except ResultCode Regs :=
  match j1939Decode r.fr.id r.fr.ctl.ide with
  | .ok f => .ok { r with j := f }
  | .error e => .error e

/-- JENC (R164). -/
def execJenc (s : State) : Host.Outcome State Fault Refusal :=
  finishCommand (Instr.opcode .jenc) s (jencBody s.regs)

/-- JDEC (R168). -/
def execJdec (s : State) : Host.Outcome State Fault Refusal :=
  finishCommand (Instr.opcode .jdec) s (jdecBody s.regs)

end Sys2Proof.Machine
end

