-- ==== Sys2Proof/Machine/System.lean ====
section
/-! DEFINITION. The housekeeping commands NOP and CLR, and the illegal command word (43_system.md). -/

namespace Sys2Proof.Machine

/-- The body of NOP: complete Ok with no writes (R191). -/
def nopBody (r : Regs) : Except ResultCode Regs := .ok r

/-- NOP (R191). -/
def execNop (s : State) : Host.Outcome State Fault Refusal :=
  finishCommand (Instr.opcode .nop) s (nopBody s.regs)

/-- CLR (R192): every register takes its reset value, STATUS included; nothing of the command step runs after it (R190). -/
def execClr (s : State) : Host.Outcome State Fault Refusal := .next s.resetBlock

/-- An illegal command word (R193): error completion with InvalidParameter, lastop the low nibble of the word. -/
def illegalCommand (w : Word) (s : State) : Host.Outcome State Fault Refusal :=
  finishCommand (opcodeField w) s (.error .invalidParameter)

end Sys2Proof.Machine
end

