-- ==== Sys2Proof/Machine/Timing.lean ====
section
/-! DEFINITION. The Timing Calculator and the command TIMING (40_timing.md). -/

namespace Sys2Proof.Machine

/-- The prescaler `clk div (bps * 16)`: exact product, quotient rounded toward zero (R111). -/
def prescaler (clk bps : Word) : Nat := clk.toNat / (bps.toNat * Config.nq)

/-- TQ_LEN of every successful TIMING: rjw, pseg2, pseg1 and prop lengths (R112, R27). -/
def lenWord : Word :=
  wordOfBytes (BitVec.ofNat 8 Config.rjwLen) (BitVec.ofNat 8 Config.pseg2Len) (BitVec.ofNat 8 Config.pseg1Len)
    (BitVec.ofNat 8 Config.propLen)

/-- TQ_CODE of every successful TIMING: each length minus one (R113, R28). -/
def codeWord : Word :=
  wordOfBytes (BitVec.ofNat 8 (Config.rjwLen - 1)) (BitVec.ofNat 8 (Config.pseg2Len - 1))
    (BitVec.ofNat 8 (Config.pseg1Len - 1)) (BitVec.ofNat 8 (Config.propLen - 1))

/-- `compute_timing` (R110 to R114): the zero checks come before the division (R204). -/
def computeTiming (clk bps : Word) : Except ResultCode TimingConfig :=
  if clk = 0#32 ∨ bps = 0#32 then .error .invalidParameter
  else if prescaler clk bps < Config.prescMin ∨ Config.prescMax < prescaler clk bps then .error .invalidParameter
  else .ok
    { rate := bps
      presc :=
        { presc := BitVec.ofNat 9 (prescaler clk bps)
          inexact := inexactFlag clk bps
          prescCode := BitVec.ofNat 8 (prescaler clk bps - 1) }
      len := lenWord
      code := codeWord }

/-- The body of TIMING (R115): reads CLK_HZ and BITRATE, writes the four TQ registers on Ok. -/
def timingBody (r : Regs) : Except ResultCode Regs :=
  match computeTiming r.clkHz r.bitrate with
  | .ok c => .ok { r with tq := c }
  | .error e => .error e

/-- TIMING (R115). -/
def execTiming (s : State) : Host.Outcome State Fault Refusal :=
  finishCommand (Instr.opcode .timing) s (timingBody s.regs)

end Sys2Proof.Machine
end

