-- ==== Sys2Proof/Machine/Dispatch.lean ====
section
/-! DEFINITION. The dispatch of a command to its meaning: `body(op)` of R190, CLR included. -/

namespace Sys2Proof.Machine

def exec (i : Instr) (s : State) : Host.Outcome State Fault Refusal :=
  match i with
  | .nop => Sys2Proof.Machine.execNop s
  | .timing => Sys2Proof.Machine.execTiming s
  | .fenc => Sys2Proof.Machine.execFenc s
  | .fdec => Sys2Proof.Machine.execFdec s
  | .jenc => Sys2Proof.Machine.execJenc s
  | .jdec => Sys2Proof.Machine.execJdec s
  | .clr => Sys2Proof.Machine.execClr s

end Sys2Proof.Machine
end

