-- ==== Sys2Proof/Machine/Bus.lean ====
section
/-! DEFINITION. The host port: the command step of a CMD write (R190), one bus cycle (R62, R63, R64, R74), and the host's next
cycle. -/

namespace Sys2Proof.Machine

/-- `CommandStep(w)` (R190): legality of the word first (R204), then the command's meaning. -/
def commandStep (w : Word) (s : State) : Host.Outcome State Fault Refusal :=
  match decode w with
  | .ok i => exec i s
  | .error _ => illegalCommand w s

/-- A write transaction (R63): index 0 runs a command, any other index writes a register. -/
def writeTransaction (i : BitVec 5) (v : Word) (s : State) : Host.Outcome State Fault Refusal :=
  if i = 0#5 then commandStep v s else .next (s.withRegs (writeIndex s.regs i v))

/-- A read transaction (R62): the host records the value; the block does not change. -/
def readTransaction (c : Cycle) (s : State) : State := s.recordRead (hRdata s.regs c)

/-- One clock cycle of the port, ending in the rising edge (R60). `rst` wins over a transaction: a write is dropped, and a read still
returns the value before the edge (R74; log entry 2). A cycle without transaction changes nothing (R64). -/
def busCycle (c : Cycle) (s : State) : Host.Outcome State Fault Refusal :=
  if c.valid && !c.write then
    if c.rst then .next (readTransaction c s).resetBlock else .next (readTransaction c s)
  else if c.rst then .next s.resetBlock
  else if c.valid then writeTransaction c.addr c.wdata s
  else .next s

/-- The host puts its next cycle on the port; when its list has ended (R7) the port is idle and nothing changes (R64; log entry 3). -/
def nextCycle (s : State) : Host.Outcome State Fault Refusal :=
  match s.script with
  | [] => .next s
  | c :: rest => busCycle c (s.withScript rest)

/-- The host's next transaction is a write of the command word `w` to CMD (R21; log entry 1). -/
def State.presentCommand (s : State) (w : Word) : State := s.withScript (hostWrite 0#5 w :: s.script)

end Sys2Proof.Machine
end

