-- ==== Sys2Proof/Machine/Step.lean ====
section
/-! DEFINITION. One step of the machine: one clock cycle of the host port (R60, R67). -/

namespace Sys2Proof.Machine

/-- One step: the host's next cycle. -/
def step (s : State) : Host.Outcome State Fault Refusal := nextCycle s

/-- `s` with the command of `nbits` bits `w` placed where the next step takes it: as the data of the host's next write to CMD (R72;
log entry 1). -/
def State.withFetchWord (s : State) (nbits w : Nat) : State := s.presentCommand (BitVec.ofNat 32 (w % 2 ^ nbits))

end Sys2Proof.Machine
end

