-- ==== Sys2Proof/Machine/Script.lean ====
section
/-! DEFINITION. The host-script notation (R91, R92): lines, their well-formedness, and the bus cycles each stands for. -/

namespace Sys2Proof.Machine

/-- A line of a host script. Values are 32-bit unsigned numbers (R91). -/
inductive ScriptLine where
  /-- `WR <reg>, <value>` (R91). -/
  | wr (x : Reg) (v : Word)
  /-- `RD <reg>` (R91). -/
  | rd (x : Reg)
  /-- `<mnemonic>` (R91). -/
  | cmd (i : Instr)
  /-- `TIMING <clk>, <bps>` (R92). -/
  | timing (clk bps : Word)
  /-- `PAYLOAD <b0>, ..., <b(n-1)>`, n from 0 to 8 (R92). -/
  | payload (bs : List Word)
  /-- `FRAME <id>, <ide>, <dlc>, <code>` (R92). -/
  | frame (id ide dlc code : Word)
  /-- `IMAGE <cs>, <id>, <d0>, <d1>` (R92). -/
  | image (cs id d0 d1 : Word)
  /-- `J1939 <prio>, <pgn>, <sa>, <da>` (R92). -/
  | j1939 (prio pgn sa da : Word)
  deriving DecidableEq, Repr

/-- The value FRAME writes to FR_CTL, exact (R92, R8). -/
def frameCtlValue (ide dlc code : Word) : Nat := dlc.toNat + 256 * ide.toNat + 4096 * code.toNat

/-- The checks on a line: PAYLOAD has at most 8 bytes (R92), and the value of FRAME is a 32-bit number (R91; log entry 13). -/
def ScriptLine.wf : ScriptLine → Bool
  | .wr _ _ => true
  | .rd _ => true
  | .cmd _ => true
  | .timing _ _ => true
  | .payload bs => bs.length ≤ Config.payloadBytes
  | .frame _ ide dlc code => frameCtlValue ide dlc code < 2 ^ 32
  | .image _ _ _ _ => true
  | .j1939 _ _ _ _ => true

/-- The transaction of `WR <reg>, <value>` (R91). -/
def wrLine (x : Reg) (v : Word) : Cycle := hostWrite x.index v

/-- The writes of PAYLOAD from register PAYk on, one a byte (R92). -/
def payloadLines (k : Nat) : List Word → List Cycle
  | [] => []
  | b :: bs => hostWrite (BitVec.ofNat 5 (12 + k)) b :: payloadLines (k + 1) bs

/-- The cycles of a line, none for an ill-formed line (R91, R92). -/
def ScriptLine.cycles (l : ScriptLine) : Option (List Cycle) :=
  if l.wf then
    match l with
    | .wr x v => some [wrLine x v]
    | .rd x => some [hostRead x.index]
    | .cmd i => some [hostWrite 0#5 (encode i)]
    | .timing clk bps => some [wrLine .clkHz clk, wrLine .bitrate bps, hostWrite 0#5 (encode .timing)]
    | .payload bs => some (payloadLines 0 bs)
    | .frame id ide dlc code => some [wrLine .frId id, wrLine .frCtl (BitVec.ofNat 32 (frameCtlValue ide dlc code))]
    | .image cs id d0 d1 => some [wrLine .mbCs cs, wrLine .mbId id, wrLine .mbD0 d0, wrLine .mbD1 d1]
    | .j1939 prio pgn sa da => some [wrLine .jPrio prio, wrLine .jPgn pgn, wrLine .jSa sa, wrLine .jDa da]
  else none

/-- The cycles of a script, in order, none if a line is ill formed (R91). -/
def scriptCycles : List ScriptLine → Option (List Cycle)
  | [] => some []
  | l :: ls =>
    match l.cycles, scriptCycles ls with
    | some a, some b => some (a ++ b)
    | _, _ => none

end Sys2Proof.Machine
end

