-- ==== Sys2Proof/Safety.lean ====
section
/-! DEFINITION. What counts as a safe run, and the invariant of the block. -/

namespace Sys2Proof.Machine

/-- No error is recorded: the sticky flag is clear (R207). -/
abbrev NoErrorRecorded (s : State) : Prop := s.regs.status.serr = false

/-- A valid TimingConfig (R26, R27, R28, R113, R116): a legal factor, its code, the fixed lengths and codes, and a rate that some
32-bit clock can reach. -/
abbrev TimingValid (c : TimingConfig) : Prop :=
  (1 ≤ c.presc.presc.toNat ∧ c.presc.presc.toNat ≤ 256) ∧
    c.presc.prescCode.toNat + 1 = c.presc.presc.toNat ∧
    c.len = 0x04040803#32 ∧ c.code = 0x03030702#32 ∧
    0 < c.rate.toNat ∧ 16 * c.rate.toNat * c.presc.presc.toNat < 2 ^ 32

/-- STATUS tells of one of the outcomes the spec lists (R200, R201, R202): Ok after an opcode below 6; InvalidParameter with the sticky
flag set; Error, from JDEC only, with the sticky flag set. -/
abbrev StatusLegal (x : Status) : Prop :=
  (x.code = 0#4 ∧ x.lastop.toNat < 6) ∨ (x.code = 1#4 ∧ x.serr = true) ∨ (x.code = 2#4 ∧ x.lastop = 5#4 ∧ x.serr = true)

/-- The invariant of the block: STATUS is one the commands can leave, and the TimingConfig is the all-zero one of reset and CLR or a
valid one (R26). -/
abbrev BlockInv (s : State) : Prop :=
  StatusLegal s.regs.status ∧ (s.regs.tq = Regs.reset.tq ∨ TimingValid s.regs.tq)

end Sys2Proof.Machine
end

