-- ==== Sys2Proof/Certificates/Slice0/Obligations.lean ====
section
/-! DEFINITION. The statements for the provers, each from the numbered rules of spec/. First the spec's own pseudocode, written down
once more over exact unsigned integers (R8), as the yardstick of the refinement statements. -/

namespace Sys2Proof.Spec

open Sys2Proof.Machine

/-- The register bank as the host sees it: `x[i]` as a number for the indices 0 to 31 (R61, R62). -/
abbrev Bank := Nat → Nat

/-- What the host would read at every index of the model's registers. -/
def view (r : Regs) : Bank := fun i => if i < 32 then (readIndex r (BitVec.ofNat 5 i)).toNat else 0

/-- `x[i] <- v`. -/
def put (x : Bank) (i v : Nat) : Bank := fun k => if k = i then v else x k

/-- `v[lo+n-1:lo]`. -/
def field (v lo n : Nat) : Nat := v / 2 ^ lo % 2 ^ n

/-- The bits a host write keeps, by index; none where it stores nothing (R20, R41). -/
def keptOnWrite (i : Nat) : Option Nat :=
  if i = 8 then some 0x1FFFFFFF
  else if i = 9 then some 0x0000F1FF
  else if 12 ≤ i ∧ i ≤ 19 then some 0x000000FF
  else if i = 25 then some 0x0003FFFF
  else if i = 24 ∨ i = 26 ∨ i = 27 then some 0x000000FF
  else if i = 2 ∨ i = 3 ∨ (20 ≤ i ∧ i ≤ 23) then some 0xFFFFFFFF
  else none

/-- The bits that can ever read as one, by index (R20, column "bits kept"). -/
def keptOnRead (i : Nat) : Nat :=
  if i = 1 then 0x000001FF
  else if i = 5 then 0xFF0101FF
  else if i = 10 then 0x0003FFFF
  else if i = 4 ∨ i = 6 ∨ i = 7 then 0xFFFFFFFF
  else (keptOnWrite i).getD 0

/-- Pseudocode of TIMING (R115). Fields that do not overlap are joined by `+` here and below. -/
def timing (x : Bank) : Except Nat Bank :=
  if x 2 = 0 ∨ x 3 = 0 then .error 1
  else if x 2 / (x 3 * 16) = 0 ∨ x 2 / (x 3 * 16) > 256 then .error 1
  else .ok (put (put (put (put x 4 (x 3))
    5 (x 2 / (x 3 * 16) + (if x 2 % (x 3 * 16) = 0 then 0 else 1) * 2 ^ 16 + (x 2 / (x 3 * 16) - 1) * 2 ^ 24))
    6 0x04040803) 7 0x03030702)

/-- `b[k]` of FENC (R134): PAYk below dlc, else 0x00. -/
def packed (x : Bank) (k : Nat) : Nat := if k < field (x 9) 0 8 then x (12 + k) else 0

/-- Four bytes of the payload in one word, the first on top (R134). -/
def packedWord (x : Bank) (k : Nat) : Nat :=
  packed x k * 2 ^ 24 + packed x (k + 1) * 2 ^ 16 + packed x (k + 2) * 2 ^ 8 + packed x (k + 3)

/-- Pseudocode of FENC (R134). -/
def fenc (x : Bank) : Except Nat Bank :=
  if field (x 9) 0 8 > 8 then .error 1
  else .ok (put (put (put (put x
    20 (field (x 9) 12 4 * 2 ^ 24 + field (x 9) 8 1 * 2 ^ 22 + field (x 9) 8 1 * 2 ^ 21 + field (x 9) 0 8 * 2 ^ 16))
    21 (if field (x 9) 8 1 = 1 then x 8 else field (x 8) 0 11 * 2 ^ 18))
    22 (packedWord x 0)) 23 (packedWord x 4))

/-- Pseudocode of FDEC (R139); it cannot fail. -/
def fdec (x : Bank) : Bank := fun i =>
  if i = 8 then (if field (x 20) 21 1 = 1 then field (x 21) 0 29 else field (x 21) 18 11)
  else if i = 9 then field (x 20) 16 4 + field (x 20) 21 1 * 2 ^ 8 + field (x 20) 24 4 * 2 ^ 12
  else if i = 10 then field (x 20) 0 16 + field (x 20) 20 1 * 2 ^ 16 + field (x 20) 22 1 * 2 ^ 17
  else if 12 ≤ i ∧ i ≤ 15 then field (x 22) (8 * (15 - i)) 8
  else if 16 ≤ i ∧ i ≤ 19 then field (x 23) (8 * (19 - i)) 8
  else x i

/-- Pseudocode of JENC (R164); FR_CTL.ide is set, the other fields of FR_CTL stay. -/
def jenc (x : Bank) : Except Nat Bank :=
  if x 24 > 7 ∨ field (x 9) 0 8 > 8 then .error 1
  else .ok (put (put x
    8 (x 24 * 2 ^ 26 + field (x 25) 17 1 * 2 ^ 25 + field (x 25) 16 1 * 2 ^ 24 + field (x 25) 8 8 * 2 ^ 16 +
      (if field (x 25) 8 8 < 240 then x 27 else field (x 25) 0 8) * 2 ^ 8 + x 26))
    9 (field (x 9) 0 8 + 2 ^ 8 + field (x 9) 12 4 * 2 ^ 12))

/-- Pseudocode of JDEC (R168); the code of Error is 2 (R200). -/
def jdec (x : Bank) : Except Nat Bank :=
  if field (x 9) 8 1 = 0 then .error 2
  else .ok (put (put (put (put x 24 (field (x 8) 26 3)) 26 (field (x 8) 0 8))
    27 (if field (x 8) 16 8 < 240 then field (x 8) 8 8 else 0xFF))
    25 (field (x 8) 24 2 * 2 ^ 16 + field (x 8) 16 8 * 2 ^ 8 + (if field (x 8) 16 8 < 240 then 0 else field (x 8) 8 8)))

/-- The end of the command step (R190): STATUS is code [3:0], lastop [7:4], serr [8]. -/
def complete (op : Nat) (x : Bank) : Except Nat Bank → Bank
  | .ok y => put y 1 (op * 2 ^ 4 + field (x 1) 8 1 * 2 ^ 8)
  | .error c => put x 1 (c + op * 2 ^ 4 + 2 ^ 8)

/-- `CommandStep(w)` (R190). -/
def commandStep (w : Nat) (x : Bank) : Bank :=
  if w / 2 ^ 4 ≠ 0 ∨ w % 2 ^ 4 ≥ 7 then complete (w % 2 ^ 4) x (.error 1)
  else if w % 2 ^ 4 = 6 then fun _ => 0
  else if w % 2 ^ 4 = 0 then complete 0 x (.ok x)
  else if w % 2 ^ 4 = 1 then complete 1 x (timing x)
  else if w % 2 ^ 4 = 2 then complete 2 x (fenc x)
  else if w % 2 ^ 4 = 3 then complete 3 x (.ok (fdec x))
  else if w % 2 ^ 4 = 4 then complete 4 x (jenc x)
  else complete 5 x (jdec x)

/-- One clock edge (R62, R63, R64, R74). -/
def clockEdge (x : Bank) (c : Cycle) : Bank :=
  if c.rst then fun _ => 0
  else if c.valid && c.write then
    if c.addr.toNat = 0 then commandStep c.wdata.toNat x
    else match keptOnWrite c.addr.toNat with
      | some m => put x c.addr.toNat (Nat.land c.wdata.toNat m)
      | none => x
  else x

/-- The registers each command may write when it completes Ok, by index (R42). -/
def resultIndices : Instr → List Nat
  | .nop => [1]
  | .timing => [1, 4, 5, 6, 7]
  | .fenc => [1, 20, 21, 22, 23]
  | .fdec => [1, 8, 9, 10, 12, 13, 14, 15, 16, 17, 18, 19]
  | .jenc => [1, 8, 9]
  | .jdec => [1, 24, 25, 26, 27]
  | .clr => List.range 32

end Sys2Proof.Spec

open Sys2Proof Sys2Proof.Machine

/-! ### The command word -/

/-- R81 and R83 on words written out from the table: the seven commands, the first reserved opcode, a word whose low nibble is NOP's
but whose upper bits are set, and the all-ones word. -/
def Obligations.WordsOfTheTableDecode : Prop :=
  decode 0x00000000#32 = .ok .nop ∧ decode 0x00000001#32 = .ok .timing ∧ decode 0x00000002#32 = .ok .fenc ∧
    decode 0x00000003#32 = .ok .fdec ∧ decode 0x00000004#32 = .ok .jenc ∧ decode 0x00000005#32 = .ok .jdec ∧
    decode 0x00000006#32 = .ok .clr ∧ decode 0x00000007#32 = .error .reservedOpcode ∧
    decode 0x00000010#32 = .error .upperBitsSet ∧ decode 0xFFFFFFFF#32 = .error .upperBitsSet

/-- R81: a word is the command named exactly when `w & mask = match`, with mask 0xFFFFFFFF; an opcode of 7 to 15 is no command. -/
def Obligations.WordIsCommandExactlyWhenItMatches : Prop :=
  ∀ w : Word,
    (decode w = .ok .nop ↔ w &&& 0xFFFFFFFF#32 = 0x00000000#32) ∧
    (decode w = .ok .timing ↔ w &&& 0xFFFFFFFF#32 = 0x00000001#32) ∧
    (decode w = .ok .fenc ↔ w &&& 0xFFFFFFFF#32 = 0x00000002#32) ∧
    (decode w = .ok .fdec ↔ w &&& 0xFFFFFFFF#32 = 0x00000003#32) ∧
    (decode w = .ok .jenc ↔ w &&& 0xFFFFFFFF#32 = 0x00000004#32) ∧
    (decode w = .ok .jdec ↔ w &&& 0xFFFFFFFF#32 = 0x00000005#32) ∧
    (decode w = .ok .clr ↔ w &&& 0xFFFFFFFF#32 = 0x00000006#32) ∧
    (7 ≤ w.toNat % 16 → ∃ e, decode w = .error e)

/-- Decoder and encoder agree in both directions: the words of a well-formed command are exactly its encoding (R80, R81), and the
words that pass the checks of R83 are exactly the encodings. -/
def Obligations.DecodeAndEncodeAgree : Prop :=
  (∀ (i : Instr) (w : Word), i.wf = true → (decode w = .ok i ↔ w = encode i)) ∧
    ∀ w : Word, legalWord w = true ↔ ∃ i : Instr, i.wf = true ∧ w = encode i

/-- R83, R193: the illegal words are all but the values 0 to 6; such a word completes with InvalidParameter (1), sets the sticky
error, records its low nibble, and changes nothing else. -/
def Obligations.IllegalWordCompletesWithInvalidParameter : Prop :=
  ∀ w : Word,
    ((w.extractLsb' 4 28 ≠ 0#28 ∨ 7 ≤ (w.extractLsb' 0 4).toNat) ↔ 7 ≤ w.toNat) ∧
      ∀ s : State, 7 ≤ w.toNat →
        commandStep w s = .next
          { s with regs := { s.regs with status := { code := 1#4, lastop := w.extractLsb' 0 4, serr := true } } }

/-! ### The host port -/

/-- A step runs the decoded command: when the host's next cycle writes a word to CMD that decodes to `i`, the step is `exec i` on the
state with that cycle taken off the host's list (R63, R190). -/
def Obligations.StepRunsTheCommandWritten : Prop :=
  ∀ (s : State) (w : Word) (rest : List Cycle) (i : Instr),
    s.script = { rst := false, valid := true, write := true, addr := 0#5, wdata := w } :: rest →
      decode w = .ok i → step s = exec i { s with script := rest }

/-- R41: a host write to an index other than 0 makes an RW register `v & keep`, and changes nothing at an RO register or a reserved
index; every other index reads as before. -/
def Obligations.HostWriteIsMasked : Prop :=
  ∀ (s : State) (i : BitVec 5) (v : Word) (rest : List Cycle), i ≠ 0#5 →
    s.script = { rst := false, valid := true, write := true, addr := i, wdata := v } :: rest →
      ∃ t, step s = .next t ∧ t.script = rest ∧ t.reads = s.reads ∧
        (∀ k, k ≠ i → readIndex t.regs k = readIndex s.regs k) ∧
        match Spec.keptOnWrite i.toNat with
        | some m => readIndex t.regs i = v &&& BitVec.ofNat 32 m
        | none => t.regs = s.regs

/-- R62: a read transaction returns the register at the index, with no bit the register does not keep, zero for CMD and for a reserved
index, and changes no register. The value returned goes to the end of `reads` (the model's record, log entry 2). -/
def Obligations.HostReadReturnsTheRegister : Prop :=
  (∀ (s : State) (i : BitVec 5) (v : Word) (rest : List Cycle),
    s.script = { rst := false, valid := true, write := false, addr := i, wdata := v } :: rest →
      step s = .next { regs := s.regs, script := rest, reads := s.reads ++ [readIndex s.regs i] }) ∧
  (∀ (r : Regs) (i : BitVec 5), readIndex r i &&& BitVec.ofNat 32 (Spec.keptOnRead i.toNat) = readIndex r i) ∧
  ∀ (r : Regs) (i : BitVec 5), (i = 0#5 ∨ i = 11#5 ∨ 28 ≤ i.toNat) → readIndex r i = 0#32

/-- R20, R47: the registers are exactly what the host can read: two banks that read the same at every index are the same bank. -/
def Obligations.HostViewDeterminesTheRegisters : Prop :=
  ∀ r q : Regs, (∀ i : BitVec 5, readIndex r i = readIndex q i) → r = q

/-- R64: a cycle without transaction and without reset changes nothing, and the registers change only by reset and by write
transactions. -/
def Obligations.OnlyResetAndWritesChangeTheRegisters : Prop :=
  (∀ (s : State) (c : Cycle) (rest : List Cycle), s.script = c :: rest → c.valid = false → c.rst = false →
    step s = .next { s with script := rest }) ∧
  ∀ s t : State, step s = .next t → t.regs ≠ s.regs →
    ∃ c rest, s.script = c :: rest ∧ (c.rst = true ∨ (c.valid = true ∧ c.write = true))

/-- R230: at an edge with rst = 1 every register takes its reset value 0, whatever transaction is presented. -/
def Obligations.ResetClearsEveryRegister : Prop :=
  ∀ (s : State) (c : Cycle) (rest : List Cycle), s.script = c :: rest → c.rst = true →
    ∃ t, step s = .next t ∧ t.regs = State.reset.regs ∧ t.script = rest ∧ ∀ i : BitVec 5, readIndex t.regs i = 0#32

/-- A read presented in a reset cycle still returns the value before the edge (R74 says it of h_rdata; that the host's record takes it
is the model's choice, log entry 2), and a write presented there leaves the record alone. -/
def Obligations.ReadInResetCycleReturnsTheOldValue : Prop :=
  ∀ (s t : State) (c : Cycle) (rest : List Cycle), s.script = c :: rest → c.rst = true → step s = .next t →
    t.reads = if c.valid && !c.write then s.reads ++ [readIndex s.regs c.addr] else s.reads

/-- R46: after reset every index reads 0x00000000. -/
def Obligations.EveryRegisterReadsZeroAfterReset : Prop :=
  ∀ i : BitVec 5, readIndex State.reset.regs i = 0x00000000#32

/-- R190 ("always terminates: no command can hang, stall or be refused entry"): every step of every state answers a next state, with
one cycle fewer for the host to send. -/
def Obligations.EveryStepAnswersANextState : Prop :=
  ∀ s : State, ∃ t, step s = .next t ∧ t.script = s.script.tail

/-- R47: two instances with equal registers, given the same transactions, keep equal registers and return the same reads. -/
def Obligations.EqualRegistersAreIndistinguishable : Prop :=
  ∀ (n : Nat) (s u t : State), s.regs = u.regs → s.script = u.script → Host.Core.run core n s = .next t →
    ∃ v l, Host.Core.run core n u = .next v ∧ t.regs = v.regs ∧ t.reads = s.reads ++ l ∧ v.reads = u.reads ++ l

/-- R70: the whole run of a host's script ends in the fold of the clock edges over the script, in order, on the register bank as the
host sees it, computed by the spec's pseudocode over exact integers. -/
def Obligations.ScriptRunIsTheFoldOfItsCycles : Prop :=
  ∀ s : State, ∃ t, Host.Core.run core s.script.length s = .next t ∧ t.script = [] ∧
    Spec.view t.regs = s.script.foldl Spec.clockEdge (Spec.view s.regs)

/-! ### The command step -/

/-- R190: the command step on the model's bit vectors is the spec's pseudocode over exact unsigned integers, read through the host
port; the host's side does not move. -/
def Obligations.CommandStepRefinesThePseudocode : Prop :=
  ∀ (w : Word) (s : State), ∃ t, commandStep w s = .next t ∧ t.script = s.script ∧ t.reads = s.reads ∧
    Spec.view t.regs = Spec.commandStep w.toNat (Spec.view s.regs)

/-- R201: every cause of a non-zero result code, complete, and what is recorded. -/
def Obligations.EveryCauseOfAnError : Prop :=
  ∀ (w : Word) (s : State), ∃ t, commandStep w s = .next t ∧
    (t.regs.status.code = 1#4 ↔
      (w.extractLsb' 4 28 ≠ 0#28 ∨ 7 ≤ (w.extractLsb' 0 4).toNat) ∨
      (w = 1#32 ∧ (s.regs.clkHz = 0#32 ∨ s.regs.bitrate = 0#32 ∨ s.regs.clkHz.toNat < 16 * s.regs.bitrate.toNat ∨
        4112 * s.regs.bitrate.toNat ≤ s.regs.clkHz.toNat)) ∨
      (w = 2#32 ∧ 8 < s.regs.fr.ctl.dlc.toNat) ∨
      (w = 4#32 ∧ (7 < s.regs.j.prio.toNat ∨ 8 < s.regs.fr.ctl.dlc.toNat))) ∧
    (t.regs.status.code = 2#4 ↔ w = 5#32 ∧ s.regs.fr.ctl.ide = false) ∧
    (t.regs.status.code = 0#4 ∨ t.regs.status.code = 1#4 ∨ t.regs.status.code = 2#4) ∧
    (w ≠ 6#32 → t.regs.status.lastop = w.extractLsb' 0 4)

/-- R202: a command that does not complete with Ok writes STATUS and nothing else: its code, the sticky error, the low nibble of the
word. -/
def Obligations.ErrorCompletionWritesStatusOnly : Prop :=
  ∀ (w : Word) (s t : State), commandStep w s = .next t → t.regs.status.code ≠ 0#4 →
    t = { s with regs :=
      { s.regs with status := { code := t.regs.status.code, lastop := w.extractLsb' 0 4, serr := true } } }

/-- R203: a command other than CLR that completes with Ok records its opcode and leaves the sticky error as it was. -/
def Obligations.SuccessKeepsTheStickyError : Prop :=
  ∀ (w : Word) (s t : State), commandStep w s = .next t → t.regs.status.code = 0#4 → w ≠ 6#32 →
    t.regs.status.lastop = w.extractLsb' 0 4 ∧ t.regs.status.serr = s.regs.status.serr

/-- R22: the sticky error is cleared only by reset and by CLR. -/
def Obligations.OnlyResetAndClrClearTheStickyError : Prop :=
  ∀ s t : State, step s = .next t → s.regs.status.serr = true → t.regs.status.serr = false →
    ∃ c rest, s.script = c :: rest ∧
      (c.rst = true ∨ (c.valid = true ∧ c.write = true ∧ c.addr = 0#5 ∧ c.wdata = 6#32))

/-- The sticky flag as a fault record (the spec marks R207 as derived from R202, R203 and R192): from a state that records no error, if
`serr` is 0 after n cycles without reset and without CLR, then after every one of these cycles STATUS.code was 0. -/
def Obligations.ClearStickyErrorMeansNoCommandFailed : Prop :=
  ∀ (s t : State) (n : Nat), s.regs.status.serr = false → s.regs.status.code = 0#4 →
    (∀ c ∈ s.script.take n, c.rst = false ∧ ¬(c.valid = true ∧ c.write = true ∧ c.addr = 0#5 ∧ c.wdata = 6#32)) →
    Host.Core.run core n s = .next t → t.regs.status.serr = false →
    ∀ m ≤ n, ∀ u, Host.Core.run core m s = .next u → u.regs.status.code = 0#4 ∧ u.regs.status.serr = false

/-- The frame of every command (the table of R42, which the spec marks as derived): the host's side is untouched; a register whose
index is not among the command's results reads as before; after an error only STATUS may differ; and JENC, which writes only
FR_CTL.ide, leaves FR_CTL.dlc, FR_CTL.code, FR_RX and the payload alone. -/
def Obligations.CommandsWriteOnlyTheirResults : Prop :=
  ∀ (i : Instr) (s t : State), exec i s = .next t →
    t.script = s.script ∧ t.reads = s.reads ∧
    (∀ k : BitVec 5, k.toNat ∉ Spec.resultIndices i → readIndex t.regs k = readIndex s.regs k) ∧
    (t.regs.status.code ≠ 0#4 → ∀ k : BitVec 5, k ≠ 1#5 → readIndex t.regs k = readIndex s.regs k) ∧
    (i = .jenc → t.regs.fr.ctl.dlc = s.regs.fr.ctl.dlc ∧ t.regs.fr.ctl.code = s.regs.fr.ctl.code ∧
      t.regs.fr.rx = s.regs.fr.rx ∧ t.regs.fr.pay = s.regs.fr.pay)

/-- What each command reads (column "reads" of R42): two states that agree on a command's operands give the same result code and the
same results. FENC and JDEC read FR_CTL.ide, against the sentence of R44 that no command reads a flag (log entry 7). -/
def Obligations.CommandsReadOnlyTheirOperands : Prop :=
  ∀ s u t v : State,
    (s.regs.clkHz = u.regs.clkHz → s.regs.bitrate = u.regs.bitrate →
      exec .timing s = .next t → exec .timing u = .next v →
      t.regs.status.code = v.regs.status.code ∧ (t.regs.status.code = 0#4 → t.regs.tq = v.regs.tq)) ∧
    (s.regs.fr.id = u.regs.fr.id → s.regs.fr.ctl = u.regs.fr.ctl → s.regs.fr.pay = u.regs.fr.pay →
      exec .fenc s = .next t → exec .fenc u = .next v →
      t.regs.status.code = v.regs.status.code ∧ (t.regs.status.code = 0#4 → t.regs.mb = v.regs.mb)) ∧
    (s.regs.mb = u.regs.mb → exec .fdec s = .next t → exec .fdec u = .next v →
      t.regs.status.code = v.regs.status.code ∧ t.regs.fr = v.regs.fr) ∧
    (s.regs.j = u.regs.j → s.regs.fr.ctl.dlc = u.regs.fr.ctl.dlc →
      exec .jenc s = .next t → exec .jenc u = .next v →
      t.regs.status.code = v.regs.status.code ∧
        (t.regs.status.code = 0#4 → t.regs.fr.id = v.regs.fr.id ∧ t.regs.fr.ctl.ide = v.regs.fr.ctl.ide)) ∧
    (s.regs.fr.id = u.regs.fr.id → s.regs.fr.ctl.ide = u.regs.fr.ctl.ide →
      exec .jdec s = .next t → exec .jdec u = .next v →
      t.regs.status.code = v.regs.status.code ∧ (t.regs.status.code = 0#4 → t.regs.j = v.regs.j))

/-! ### Whole-machine rules -/

/-- The invariant `BlockInv` holds at reset. -/
def Obligations.InvariantHoldsAtReset : Prop := BlockInv State.reset

/-- Every step keeps `BlockInv`: STATUS is one the commands can leave (R200, R201, R202), and the TimingConfig is all zero or valid (R26, R116
(a)), from every state that meets it. -/
def Obligations.StepKeepsTheInvariant : Prop :=
  ∀ s t : State, BlockInv s → step s = .next t → BlockInv t

/-- R10: the host cannot write the four TQ registers; only TIMING, CLR and reset change them. -/
def Obligations.OnlyTimingClrAndResetChangeTheTimingConfig : Prop :=
  ∀ s t : State, step s = .next t → t.regs.tq ≠ s.regs.tq →
    ∃ c rest, s.script = c :: rest ∧
      (c.rst = true ∨ (c.valid = true ∧ c.write = true ∧ c.addr = 0#5 ∧ (c.wdata = 1#32 ∨ c.wdata = 6#32)))

/-- The receive-side values of FR_RX change only by FDEC, CLR and reset (R31, R42). -/
def Obligations.OnlyFdecClrAndResetChangeTheReceiveSide : Prop :=
  ∀ s t : State, step s = .next t → t.regs.fr.rx ≠ s.regs.fr.rx →
    ∃ c rest, s.script = c :: rest ∧
      (c.rst = true ∨ (c.valid = true ∧ c.write = true ∧ c.addr = 0#5 ∧ (c.wdata = 3#32 ∨ c.wdata = 6#32)))

/-- Results are not recomputed when operands change (the spec marks R234 as derived from R42): a host write to any register leaves the
TimingConfig alone; one outside MB leaves MB alone, one outside FR_ID, FR_CTL and PAY leaves the Frame alone, one outside the J
registers leaves those alone. -/
def Obligations.OperandWritesLeaveTheResultsAlone : Prop :=
  ∀ (s t : State) (i : BitVec 5) (v : Word) (rest : List Cycle), i ≠ 0#5 →
    s.script = { rst := false, valid := true, write := true, addr := i, wdata := v } :: rest → step s = .next t →
    t.regs.status = s.regs.status ∧ t.regs.tq = s.regs.tq ∧
    (i.toNat < 20 ∨ 23 < i.toNat → t.regs.mb = s.regs.mb) ∧
    (i.toNat < 8 ∨ 19 < i.toNat → t.regs.fr = s.regs.fr) ∧
    (i.toNat < 24 → t.regs.j = s.regs.j)

/-! ### TIMING -/

/-- R110, R111: `compute_timing` fails, with InvalidParameter, in exactly the four cases; the prescaler is the exact quotient, 0 exactly
below 16 times the rate and above 256 exactly from 4112 times the rate on; so it succeeds exactly between, and always fails for rates
of 2^28 and above. -/
def Obligations.ComputeTimingSucceedsExactlyInRange : Prop :=
  ∀ clk bps : Word,
    (computeTiming clk bps = .error .invalidParameter ↔
      clk = 0#32 ∨ bps = 0#32 ∨ (clk ≠ 0#32 ∧ bps ≠ 0#32 ∧ clk.toNat / (bps.toNat * 16) = 0) ∨
        (clk ≠ 0#32 ∧ bps ≠ 0#32 ∧ 256 < clk.toNat / (bps.toNat * 16))) ∧
    (bps ≠ 0#32 → prescaler clk bps = clk.toNat / (bps.toNat * 16) ∧
      (prescaler clk bps = 0 ↔ clk.toNat < bps.toNat * 16) ∧
      (256 < prescaler clk bps ↔ 4112 * bps.toNat ≤ clk.toNat)) ∧
    ((∃ c, computeTiming clk bps = .ok c) ↔ (bps ≠ 0#32 ∧ 16 * bps.toNat ≤ clk.toNat ∧ clk.toNat < 4112 * bps.toNat)) ∧
    ((∀ c, computeTiming clk bps ≠ .ok c) ↔ computeTiming clk bps = .error .invalidParameter) ∧
    (2 ^ 28 ≤ bps.toNat → computeTiming clk bps = .error .invalidParameter)

/-- R115: TIMING in range completes with Ok and the four results; out of range it completes with InvalidParameter and writes STATUS
only. -/
def Obligations.TimingCompletes : Prop :=
  ∀ s : State,
    (16 * s.regs.bitrate.toNat ≤ s.regs.clkHz.toNat → s.regs.clkHz.toNat < 4112 * s.regs.bitrate.toNat →
      exec .timing s = .next
        { s with regs :=
          { s.regs with
            status := { code := 0#4, lastop := 1#4, serr := s.regs.status.serr }
            tq :=
              { rate := s.regs.bitrate
                presc :=
                  { presc := BitVec.ofNat 9 (s.regs.clkHz.toNat / (s.regs.bitrate.toNat * 16))
                    inexact := decide (s.regs.clkHz.toNat % (s.regs.bitrate.toNat * 16) ≠ 0)
                    prescCode := BitVec.ofNat 8 (s.regs.clkHz.toNat / (s.regs.bitrate.toNat * 16) - 1) }
                len := 0x04040803#32
                code := 0x03030702#32 } } }) ∧
    (s.regs.clkHz.toNat < 16 * s.regs.bitrate.toNat ∨ 4112 * s.regs.bitrate.toNat ≤ s.regs.clkHz.toNat →
      exec .timing s = .next
        { s with regs := { s.regs with status := { code := 1#4, lastop := 1#4, serr := true } } })

/-- The laws of a successful TIMING (the spec marks R116 as derived from R111, R112 and R114): (a) the factor's range; (b) the clock
lies in its interval; (c) 16 quanta; (d) sample point after 12; (e) the jump width fits both phase segments; (f) the achieved rate is
at least the requested one, equal exactly when not inexact, and below it times (p+1)/p; (g) TQ_RATE is the requested rate. -/
def Obligations.TimingResultLaws : Prop :=
  ∀ s t : State, exec .timing s = .next t → t.regs.status.code = 0#4 →
    ∃ p bps clk prop pseg1 pseg2 rjw : Nat,
      p = t.regs.tq.presc.presc.toNat ∧ bps = s.regs.bitrate.toNat ∧ clk = s.regs.clkHz.toNat ∧
      prop = (t.regs.tq.len.extractLsb' 0 8).toNat ∧ pseg1 = (t.regs.tq.len.extractLsb' 8 8).toNat ∧
      pseg2 = (t.regs.tq.len.extractLsb' 16 8).toNat ∧ rjw = (t.regs.tq.len.extractLsb' 24 8).toNat ∧
      (1 ≤ p ∧ p ≤ 256) ∧
      (p * 16 * bps ≤ clk ∧ clk < (p + 1) * 16 * bps) ∧
      1 + prop + pseg1 + pseg2 = 16 ∧
      1 + prop + pseg1 = 12 ∧
      (rjw ≤ pseg2 ∧ rjw ≤ pseg1) ∧
      ((bps : ℚ) ≤ (clk : ℚ) / (16 * p) ∧
        ((clk : ℚ) / (16 * p) = bps ↔ t.regs.tq.presc.inexact = false) ∧
        (clk : ℚ) / (16 * p) < bps * (p + 1) / p) ∧
      t.regs.tq.rate = s.regs.bitrate

/-! ### Frame codec -/

/-- R134: FENC with dlc up to 8 completes with Ok and the four words, written here field by field from the tables of R85, R86 and R87;
with dlc above 8 it completes with InvalidParameter and writes STATUS only. -/
def Obligations.FencCompletes : Prop :=
  ∀ (s : State) (b : Fin 8 → Byte),
    (∀ k, b k = if k.val < s.regs.fr.ctl.dlc.toNat then s.regs.fr.pay[k] else 0x00#8) →
    (s.regs.fr.ctl.dlc.toNat ≤ 8 →
      exec .fenc s = .next
        { s with regs :=
          { s.regs with
            status := { code := 0#4, lastop := 2#4, serr := s.regs.status.serr }
            mb :=
              { cs := 0#4 ++ s.regs.fr.ctl.code ++ 0#1 ++ BitVec.ofBool s.regs.fr.ctl.ide ++
                  BitVec.ofBool s.regs.fr.ctl.ide ++ 0#1 ++ s.regs.fr.ctl.dlc.extractLsb' 0 4 ++ 0#16
                id := if s.regs.fr.ctl.ide then 0#3 ++ s.regs.fr.id else 0#3 ++ s.regs.fr.id.extractLsb' 0 11 ++ 0#18
                d0 := b 0 ++ b 1 ++ b 2 ++ b 3
                d1 := b 4 ++ b 5 ++ b 6 ++ b 7 } } }) ∧
    (8 < s.regs.fr.ctl.dlc.toNat →
      exec .fenc s = .next
        { s with regs := { s.regs with status := { code := 1#4, lastop := 2#4, serr := true } } })

/-- R139: FDEC always completes with Ok; FR_ID, FR_CTL, FR_RX and PAY0 to PAY7 read as the fields of the four words, every other
register but STATUS is unchanged. -/
def Obligations.FdecCompletes : Prop :=
  ∀ s : State, ∃ t, exec .fdec s = .next t ∧ t.script = s.script ∧ t.reads = s.reads ∧
    t.regs.status = { code := 0#4, lastop := 3#4, serr := s.regs.status.serr } ∧
    (readIndex t.regs 8#5 = if s.regs.mb.cs.getLsbD 21 then 0#3 ++ s.regs.mb.id.extractLsb' 0 29
      else 0#21 ++ s.regs.mb.id.extractLsb' 18 11) ∧
    readIndex t.regs 9#5 = 0#16 ++ s.regs.mb.cs.extractLsb' 24 4 ++ 0#3 ++ s.regs.mb.cs.extractLsb' 21 1 ++ 0#4 ++
      s.regs.mb.cs.extractLsb' 16 4 ∧
    readIndex t.regs 10#5 = 0#14 ++ s.regs.mb.cs.extractLsb' 22 1 ++ s.regs.mb.cs.extractLsb' 20 1 ++
      s.regs.mb.cs.extractLsb' 0 16 ∧
    readIndex t.regs 12#5 = 0#24 ++ s.regs.mb.d0.extractLsb' 24 8 ∧
    readIndex t.regs 13#5 = 0#24 ++ s.regs.mb.d0.extractLsb' 16 8 ∧
    readIndex t.regs 14#5 = 0#24 ++ s.regs.mb.d0.extractLsb' 8 8 ∧
    readIndex t.regs 15#5 = 0#24 ++ s.regs.mb.d0.extractLsb' 0 8 ∧
    readIndex t.regs 16#5 = 0#24 ++ s.regs.mb.d1.extractLsb' 24 8 ∧
    readIndex t.regs 17#5 = 0#24 ++ s.regs.mb.d1.extractLsb' 16 8 ∧
    readIndex t.regs 18#5 = 0#24 ++ s.regs.mb.d1.extractLsb' 8 8 ∧
    readIndex t.regs 19#5 = 0#24 ++ s.regs.mb.d1.extractLsb' 0 8 ∧
    t.regs.clkHz = s.regs.clkHz ∧ t.regs.bitrate = s.regs.bitrate ∧ t.regs.tq = s.regs.tq ∧ t.regs.mb = s.regs.mb ∧
    t.regs.j = s.regs.j

/-- Decode ignores the bits the document does not describe (rules R135 to R138; U3 calls it a theorem of those rules): images that
differ only in CS [31:28] and [23], in ID [31:29], and, for a Standard frame, in ID [17:0] decode to the same Frame. -/
def Obligations.FdecIgnoresTheUndescribedBits : Prop :=
  ∀ s u t v : State, exec .fdec s = .next t → exec .fdec u = .next v →
    s.regs.mb.cs &&& 0x0F7FFFFF#32 = u.regs.mb.cs &&& 0x0F7FFFFF#32 →
    (if s.regs.mb.cs.getLsbD 21 then s.regs.mb.id &&& 0x1FFFFFFF#32 = u.regs.mb.id &&& 0x1FFFFFFF#32
      else s.regs.mb.id &&& 0x1FFC0000#32 = u.regs.mb.id &&& 0x1FFC0000#32) →
    s.regs.mb.d0 = u.regs.mb.d0 → s.regs.mb.d1 = u.regs.mb.d1 → t.regs.fr = v.regs.fr

/-- Where encode puts the identifier (the spec marks R143 as derived from R131 and R132): Standard, exactly bits [28:18]; Extended, bits
[28:0] with bit 21 of the CS word set; in both cases SRR equals IDE and the DLC field is dlc. -/
def Obligations.IdentifierPlacementOnEncode : Prop :=
  ∀ (id : BitVec 29) (ide : Bool) (dlc : Byte) (pay : Vector Byte 8) (code : BitVec 4) (m : MailboxImage),
    frameEncode id ide dlc pay code = .ok m →
      (ide = false → m.id &&& ~~~0x1FFC0000#32 = 0#32 ∧ m.id.extractLsb' 18 11 = id.extractLsb' 0 11) ∧
      (ide = true → m.id.toNat = id.toNat ∧ m.cs.getLsbD 21 = true) ∧
      m.cs.getLsbD 22 = m.cs.getLsbD 21 ∧ (m.cs.extractLsb' 16 4).toNat = dlc.toNat

/-- The round trips of the codec (the spec marks R140 as derived from R131 to R133 and R135 to R138): (a) Frame to image to Frame, for
dlc up to 8; (b) image to Frame to image, for a DLC field up to 8, with the re-encode failing for 9 to 15. -/
def Obligations.FrameCodecRoundTrips : Prop :=
  (∀ (id : BitVec 29) (ide : Bool) (dlc : Byte) (pay : Vector Byte 8) (code : BitVec 4), dlc.toNat ≤ 8 →
    ∃ m, frameEncode id ide dlc pay code = .ok m ∧
      (frameDecode m).id = (if ide then id else id &&& 0x7FF#29) ∧
      (frameDecode m).ctl = { dlc := dlc, ide := ide, code := code } ∧
      (frameDecode m).rx = { ts := 0#16, rtr := false, srr := ide } ∧
      ∀ k : Fin 8, (frameDecode m).pay[k] = if k.val < dlc.toNat then pay[k] else 0x00#8) ∧
  ∀ (m : MailboxImage) (f : Frame), f = frameDecode m →
    ((m.cs.extractLsb' 16 4).toNat ≤ 8 →
      ∃ q, frameEncode f.id f.ctl.ide f.ctl.dlc f.pay f.ctl.code = .ok q ∧
        q.cs = (m.cs &&& 0x0F2F0000#32) ||| ((m.cs >>> 21 &&& 1#32) <<< 22) ∧
        q.id = (if m.cs.getLsbD 21 then m.id &&& 0x1FFFFFFF#32 else m.id &&& 0x1FFC0000#32) ∧
        ∀ k : Fin 4,
          q.d0.extractLsb' (24 - 8 * k.val) 8 =
            (if k.val < (m.cs.extractLsb' 16 4).toNat then m.d0.extractLsb' (24 - 8 * k.val) 8 else 0x00#8) ∧
          q.d1.extractLsb' (24 - 8 * k.val) 8 =
            (if k.val + 4 < (m.cs.extractLsb' 16 4).toNat then m.d1.extractLsb' (24 - 8 * k.val) 8 else 0x00#8)) ∧
    (8 < (m.cs.extractLsb' 16 4).toNat →
      frameEncode f.id f.ctl.ide f.ctl.dlc f.pay f.ctl.code = .error .invalidParameter)

/-! ### J1939 -/

/-- R164: JENC with a priority up to 7 and a dlc up to 8 completes with Ok, the identifier and an Extended Frame; otherwise it
completes with InvalidParameter and writes STATUS only. -/
def Obligations.JencCompletes : Prop :=
  ∀ (s : State) (pf ps : Byte), pf = s.regs.j.pgn.extractLsb' 8 8 →
    ps = (if pf.toNat < 240 then s.regs.j.da else s.regs.j.pgn.extractLsb' 0 8) →
    (s.regs.j.prio.toNat ≤ 7 → s.regs.fr.ctl.dlc.toNat ≤ 8 →
      exec .jenc s = .next
        { s with regs :=
          { s.regs with
            status := { code := 0#4, lastop := 4#4, serr := s.regs.status.serr }
            fr :=
              { s.regs.fr with
                id := s.regs.j.prio.extractLsb' 0 3 ++ s.regs.j.pgn.extractLsb' 17 1 ++ s.regs.j.pgn.extractLsb' 16 1 ++
                  pf ++ ps ++ s.regs.j.sa
                ctl := { s.regs.fr.ctl with ide := true } } } }) ∧
    (7 < s.regs.j.prio.toNat ∨ 8 < s.regs.fr.ctl.dlc.toNat →
      exec .jenc s = .next
        { s with regs := { s.regs with status := { code := 1#4, lastop := 4#4, serr := true } } })

/-- R163: the identifier as a number, with the PDU-specific byte of R162, and, for pf of 240 and above, the form of the document's
scenario. -/
def Obligations.IdentifierAssemblyOnEncode : Prop :=
  ∀ (prio : Byte) (pgn : BitVec 18) (sa da dlc : Byte) (id : BitVec 29) (pf : Nat),
    pf = (pgn.extractLsb' 8 8).toNat → j1939Encode prio pgn sa da dlc = .ok id →
      id.toNat = prio.toNat * 2 ^ 26 + (pgn.extractLsb' 17 1).toNat * 2 ^ 25 + (pgn.extractLsb' 16 1).toNat * 2 ^ 24 +
        pf * 2 ^ 16 + (if pf < 240 then da.toNat else (pgn.extractLsb' 0 8).toNat) * 2 ^ 8 + sa.toNat ∧
      (240 ≤ pf → id.toNat = prio.toNat * 2 ^ 26 + pgn.toNat * 2 ^ 8 + sa.toNat)

/-- R168: JDEC of an Extended Frame completes with Ok and the four fields, by the PDU branch; of a Standard Frame it completes with
Error (2) and writes STATUS only. -/
def Obligations.JdecCompletes : Prop :=
  ∀ (s : State) (pf ps : Byte), pf = s.regs.fr.id.extractLsb' 16 8 → ps = s.regs.fr.id.extractLsb' 8 8 →
    (s.regs.fr.ctl.ide = true →
      exec .jdec s = .next
        { s with regs :=
          { s.regs with
            status := { code := 0#4, lastop := 5#4, serr := s.regs.status.serr }
            j :=
              { prio := 0#5 ++ s.regs.fr.id.extractLsb' 26 3
                pgn := s.regs.fr.id.extractLsb' 24 2 ++ pf ++ (if pf.toNat < 240 then 0x00#8 else ps)
                sa := s.regs.fr.id.extractLsb' 0 8
                da := if pf.toNat < 240 then ps else 0xFF#8 } } }) ∧
    (s.regs.fr.ctl.ide = false →
      exec .jdec s = .next
        { s with regs := { s.regs with status := { code := 2#4, lastop := 5#4, serr := true } } })

/-- The round trips of the J1939 unit (the spec marks R169 as derived from R161 to R163, R166 and R167): (a) fields to identifier to
fields; (b) identifier to fields to identifier, with any dlc up to 8; (c) decode is injective on Extended identifiers. -/
def Obligations.J1939RoundTrips : Prop :=
  (∀ (prio : Byte) (pgn : BitVec 18) (sa da dlc : Byte), prio.toNat ≤ 7 → dlc.toNat ≤ 8 →
    ∃ id, j1939Encode prio pgn sa da dlc = .ok id ∧
      j1939Decode id true = .ok
        (if 240 ≤ (pgn.extractLsb' 8 8).toNat then { prio := prio, pgn := pgn, sa := sa, da := 255#8 }
          else { prio := prio, pgn := pgn &&& 0x3FF00#18, sa := sa, da := da })) ∧
  (∀ (id : BitVec 29) (dlc : Byte), dlc.toNat ≤ 8 →
    ∃ f, j1939Decode id true = .ok f ∧ j1939Encode f.prio f.pgn f.sa f.da dlc = .ok id) ∧
  ∀ id id' : BitVec 29, j1939Decode id true = j1939Decode id' true → id = id'

/-- Transmit and receive (the spec marks R170 as derived from R140 and R169): for every valid J1939Frame in `s`, JENC then FENC, the
image carried over to any block `u`, then FDEC then JDEC, all complete with Ok and give back priority, source, dlc, the payload bytes
below dlc, and the PGN and destination as R169 (a) says. -/
def Obligations.TransmitThenReceiveGivesTheFrameBack : Prop :=
  ∀ s u : State, s.regs.j.prio.toNat ≤ 7 → s.regs.fr.ctl.dlc.toNat ≤ 8 →
    ∃ s₁ s₂ u₁ u₂ : State,
      exec .jenc s = .next s₁ ∧ exec .fenc s₁ = .next s₂ ∧
      exec .fdec { u with regs := { u.regs with mb := s₂.regs.mb } } = .next u₁ ∧ exec .jdec u₁ = .next u₂ ∧
      s₁.regs.status.code = 0#4 ∧ s₂.regs.status.code = 0#4 ∧ u₁.regs.status.code = 0#4 ∧ u₂.regs.status.code = 0#4 ∧
      u₂.regs.j.prio = s.regs.j.prio ∧ u₂.regs.j.sa = s.regs.j.sa ∧ u₂.regs.fr.ctl.dlc = s.regs.fr.ctl.dlc ∧
      (∀ k : Fin 8, k.val < s.regs.fr.ctl.dlc.toNat → u₂.regs.fr.pay[k] = s.regs.fr.pay[k]) ∧
      (if 240 ≤ (s.regs.j.pgn.extractLsb' 8 8).toNat then
        u₂.regs.j.pgn = s.regs.j.pgn ∧ u₂.regs.j.da = 255#8
      else u₂.regs.j.pgn = s.regs.j.pgn &&& 0x3FF00#18 ∧ u₂.regs.j.da = s.regs.j.da)

/-! ### Housekeeping -/

/-- NOP completes with Ok and changes STATUS.code and STATUS.lastop to 0, nothing else (R191). -/
def Obligations.NopCompletes : Prop :=
  ∀ s : State, exec .nop s = .next
    { s with regs := { s.regs with status := { code := 0#4, lastop := 0#4, serr := s.regs.status.serr } } }

/-- R192, R231: CLR always completes; every register then reads 0, STATUS included, and the registers are those that reset leaves. -/
def Obligations.ClrCompletesLikeReset : Prop :=
  ∀ s : State, ∃ t, exec .clr s = .next t ∧ t.script = s.script ∧ t.reads = s.reads ∧
    t.regs = State.reset.regs ∧ (∀ i : BitVec 5, readIndex t.regs i = 0x00000000#32) ∧
    ∀ (c : Cycle) (u : State), c.rst = true → busCycle c s = .next u → u.regs = t.regs

/-! ### Script notation -/

/-- R91, R92: the transaction of every primitive line and the expansion of every pseudo-line, in order. -/
def Obligations.ScriptLinesExpand : Prop :=
  (∀ (x : Reg) (v : Word), (ScriptLine.wr x v).cycles = some [⟨false, true, true, x.index, v⟩]) ∧
  (∀ x : Reg, ∃ v, (ScriptLine.rd x).cycles = some [⟨false, true, false, x.index, v⟩]) ∧
  (∀ i : Instr, (ScriptLine.cmd i).cycles = some [⟨false, true, true, 0#5, 0#28 ++ i.opcode⟩]) ∧
  (∀ clk bps : Word, (ScriptLine.timing clk bps).cycles =
    some [⟨false, true, true, 2#5, clk⟩, ⟨false, true, true, 3#5, bps⟩, ⟨false, true, true, 0#5, 1#32⟩]) ∧
  (∀ bs : List Word, bs.length ≤ 8 → (ScriptLine.payload bs).cycles =
    some (bs.mapIdx fun k b => ⟨false, true, true, BitVec.ofNat 5 (12 + k), b⟩)) ∧
  (∀ id ide dlc code : Word, dlc.toNat + 256 * ide.toNat + 4096 * code.toNat < 2 ^ 32 →
    (ScriptLine.frame id ide dlc code).cycles =
      some [⟨false, true, true, 8#5, id⟩, ⟨false, true, true, 9#5, dlc + 256#32 * ide + 4096#32 * code⟩]) ∧
  (∀ cs id d0 d1 : Word, (ScriptLine.image cs id d0 d1).cycles =
    some [⟨false, true, true, 20#5, cs⟩, ⟨false, true, true, 21#5, id⟩, ⟨false, true, true, 22#5, d0⟩,
      ⟨false, true, true, 23#5, d1⟩]) ∧
  ∀ prio pgn sa da : Word, (ScriptLine.j1939 prio pgn sa da).cycles =
    some [⟨false, true, true, 24#5, prio⟩, ⟨false, true, true, 25#5, pgn⟩, ⟨false, true, true, 26#5, sa⟩,
      ⟨false, true, true, 27#5, da⟩]
end

