-- ==== Sys2Proof/Laws/State.lean ====
section
/-! SUPPORT. The small lemmas of the state updates: one per field per update, each true by definition. -/

namespace Sys2Proof.Machine

variable (s : State) (r q : Regs) (op : BitVec 4) (c : ResultCode) (v w : Word) (cs : List Cycle)

@[simp] theorem State.withRegs_regs : (s.withRegs r).regs = r := rfl
@[simp] theorem State.withRegs_script : (s.withRegs r).script = s.script := rfl
@[simp] theorem State.withRegs_reads : (s.withRegs r).reads = s.reads := rfl

@[simp] theorem State.resetBlock_regs : s.resetBlock.regs = Regs.reset := rfl
@[simp] theorem State.resetBlock_script : s.resetBlock.script = s.script := rfl
@[simp] theorem State.resetBlock_reads : s.resetBlock.reads = s.reads := rfl

@[simp] theorem State.recordRead_regs : (s.recordRead v).regs = s.regs := rfl
@[simp] theorem State.recordRead_script : (s.recordRead v).script = s.script := rfl
@[simp] theorem State.recordRead_reads : (s.recordRead v).reads = s.reads ++ [v] := rfl

@[simp] theorem State.withScript_regs : (s.withScript cs).regs = s.regs := rfl
@[simp] theorem State.withScript_script : (s.withScript cs).script = cs := rfl
@[simp] theorem State.withScript_reads : (s.withScript cs).reads = s.reads := rfl

@[simp] theorem State.presentCommand_regs : (s.presentCommand w).regs = s.regs := rfl
@[simp] theorem State.presentCommand_script : (s.presentCommand w).script = hostWrite 0#5 w :: s.script := rfl
@[simp] theorem State.presentCommand_reads : (s.presentCommand w).reads = s.reads := rfl

@[simp] theorem errorCompletion_status :
    (errorCompletion op c r).status = { code := c.number, lastop := op, serr := true } := rfl
@[simp] theorem errorCompletion_clkHz : (errorCompletion op c r).clkHz = r.clkHz := rfl
@[simp] theorem errorCompletion_bitrate : (errorCompletion op c r).bitrate = r.bitrate := rfl
@[simp] theorem errorCompletion_tq : (errorCompletion op c r).tq = r.tq := rfl
@[simp] theorem errorCompletion_fr : (errorCompletion op c r).fr = r.fr := rfl
@[simp] theorem errorCompletion_mb : (errorCompletion op c r).mb = r.mb := rfl
@[simp] theorem errorCompletion_j : (errorCompletion op c r).j = r.j := rfl

@[simp] theorem okCompletion_status :
    (okCompletion op r q).status = { code := 0#4, lastop := op, serr := r.status.serr } := rfl
@[simp] theorem okCompletion_clkHz : (okCompletion op r q).clkHz = q.clkHz := rfl
@[simp] theorem okCompletion_bitrate : (okCompletion op r q).bitrate = q.bitrate := rfl
@[simp] theorem okCompletion_tq : (okCompletion op r q).tq = q.tq := rfl
@[simp] theorem okCompletion_fr : (okCompletion op r q).fr = q.fr := rfl
@[simp] theorem okCompletion_mb : (okCompletion op r q).mb = q.mb := rfl
@[simp] theorem okCompletion_j : (okCompletion op r q).j = q.j := rfl

@[simp] theorem completeCommand_ok : completeCommand op r (.ok q) = okCompletion op r q := rfl
@[simp] theorem completeCommand_error : completeCommand op r (.error c) = errorCompletion op c r := rfl

end Sys2Proof.Machine
end

