-- ==== Sys2Proof/Laws/Command.lean ====
section
/-! SUPPORT. What the command step can do: one lemma per shared operation, and one per body. -/

namespace Sys2Proof.Machine

/-- The end of a command is always a next state, the one with the completed registers. -/
theorem finishCommand_eq_next_iff {op : BitVec 4} {s t : State} {res : Except ResultCode Regs} :
    finishCommand op s res = .next t ↔ t = s.withRegs (completeCommand op s.regs res) := by
  simp [finishCommand, eq_comm]

/-- What a completion leaves: the body's writes under an Ok status, or the old registers under an error status. -/
theorem completeCommand_cases (op : BitVec 4) (r : Regs) (res : Except ResultCode Regs) :
    (∃ q, res = .ok q ∧ completeCommand op r res = okCompletion op r q) ∨
      ∃ c, res = .error c ∧ completeCommand op r res = errorCompletion op c r := by
  cases res with
  | ok q => exact .inl ⟨q, rfl, rfl⟩
  | error c => exact .inr ⟨c, rfl, rfl⟩

/-- TIMING's body writes the TimingConfig only, and fails only with InvalidParameter (R115). -/
theorem timingBody_cases (r : Regs) :
    (∃ c, computeTiming r.clkHz r.bitrate = .ok c ∧ timingBody r = .ok { r with tq := c }) ∨
      (computeTiming r.clkHz r.bitrate = .error .invalidParameter ∧ timingBody r = .error .invalidParameter) := by
  unfold timingBody computeTiming
  split_ifs
  · exact .inr ⟨rfl, rfl⟩
  · exact .inr ⟨rfl, rfl⟩
  · exact .inl ⟨_, rfl, rfl⟩

/-- FENC's body writes the MailboxImage only, and fails exactly for dlc above 8 (R134). -/
theorem fencBody_cases (r : Regs) :
    (r.fr.ctl.dlc.toNat ≤ 8 ∧ ∃ m, frameEncode r.fr.id r.fr.ctl.ide r.fr.ctl.dlc r.fr.pay r.fr.ctl.code = .ok m ∧
      fencBody r = .ok { r with mb := m }) ∨
    (8 < r.fr.ctl.dlc.toNat ∧ fencBody r = .error .invalidParameter) := by
  unfold fencBody frameEncode
  split_ifs with h
  · exact .inr ⟨h, rfl⟩
  · exact .inl ⟨Nat.le_of_not_lt h, _, rfl, rfl⟩

/-- JENC's body writes FR_ID and FR_CTL.ide only, and fails exactly for an illegal priority or dlc (R164). -/
theorem jencBody_cases (r : Regs) :
    ((r.j.prio.toNat ≤ 7 ∧ r.fr.ctl.dlc.toNat ≤ 8) ∧
      ∃ id, j1939Encode r.j.prio r.j.pgn r.j.sa r.j.da r.fr.ctl.dlc = .ok id ∧
        jencBody r = .ok { r with fr := { r.fr with id := id, ctl := { r.fr.ctl with ide := true } } }) ∨
    ((7 < r.j.prio.toNat ∨ 8 < r.fr.ctl.dlc.toNat) ∧ jencBody r = .error .invalidParameter) := by
  unfold jencBody j1939Encode
  split_ifs with h
  · exact .inr ⟨h, rfl⟩
  · exact .inl ⟨(not_or.mp h).imp Nat.le_of_not_lt Nat.le_of_not_lt, _, rfl, rfl⟩

/-- JDEC's body writes the J registers only, and fails exactly for a Standard Frame (R168). -/
theorem jdecBody_cases (r : Regs) :
    (r.fr.ctl.ide = true ∧ ∃ f, j1939Decode r.fr.id true = .ok f ∧ jdecBody r = .ok { r with j := f }) ∨
    (r.fr.ctl.ide = false ∧ jdecBody r = .error .error) := by
  unfold jdecBody j1939Decode
  cases h : r.fr.ctl.ide
  · exact .inr ⟨rfl, rfl⟩
  · exact .inl ⟨rfl, _, rfl, rfl⟩

/-- The command step runs the decoded command. -/
theorem commandStep_of_decode {w : Word} {i : Instr} (h : decode w = .ok i) (s : State) : commandStep w s = exec i s := by
  simp [commandStep, h]

/-- The command step of an illegal word is its error completion. -/
theorem commandStep_of_illegal {w : Word} {e : IllegalWord} (h : decode w = .error e) (s : State) :
    commandStep w s = illegalCommand w s := by
  simp [commandStep, h]

/-- Every clause of `decode`: a rejected word fails a check of R83, an accepted one is its command's opcode under zero upper bits. -/
theorem decode_cases (w : Word) :
    (∃ e, decode w = .error e ∧ legalWord w = false) ∨
      ∃ i, decode w = .ok i ∧ legalWord w = true ∧ opcodeField w = i.opcode := by
  unfold decode legalWord upperBitsZero opcodeAssigned
  split_ifs with h
  · exact .inl ⟨_, rfl, by simp [h]⟩
  · have hu : w.extractLsb' 4 28 = 0#28 := by simpa using h
    rw [hu, show w.extractLsb' 0 4 = opcodeField w from rfl]
    obtain ⟨⟨n, hn⟩⟩ := opcodeField w
    interval_cases n <;> first | exact .inl ⟨_, rfl, rfl⟩ | exact .inr ⟨_, rfl, rfl, rfl⟩

end Sys2Proof.Machine
end

