-- ==== Sys2Proof/Laws/Layout.lean ====
section
/-! SUPPORT. One lemma per word layout: the shift-and-or form of the spec's formulas as the concatenation of the fields, and the
field lemmas that follow. -/

namespace Sys2Proof.Machine

theorem flagBit_getLsbD (w : Nat) (b : Bool) (i : Nat) :
    (flagBit (w + 1) b).getLsbD i = (decide (i = 0) && b) := by
  cases b <;> cases i <;> simp [flagBit]

/-- STATUS (R22), the top field first. -/
theorem Status.toWord_eq_append (x : Status) : x.toWord = 0#23 ++ BitVec.ofBool x.serr ++ x.lastop ++ x.code := by
  apply BitVec.eq_of_getLsbD_eq
  intro i hi
  simp only [Status.toWord, flagBit, BitVec.getLsbD_append, BitVec.getLsbD_or, BitVec.getLsbD_shiftLeft, BitVec.getLsbD_setWidth]
  interval_cases i <;> simp

/-- TQ_PRESC (R26), the top field first. -/
theorem TqPresc.toWord_eq_append (x : TqPresc) :
    x.toWord = x.prescCode ++ 0#7 ++ BitVec.ofBool x.inexact ++ 0#7 ++ x.presc := by
  apply BitVec.eq_of_getLsbD_eq
  intro i hi
  simp only [TqPresc.toWord, flagBit, BitVec.getLsbD_append, BitVec.getLsbD_or, BitVec.getLsbD_shiftLeft, BitVec.getLsbD_setWidth]
  interval_cases i <;> simp

/-- FR_CTL (R30), the top field first. -/
theorem FrCtl.toWord_eq_append (x : FrCtl) : x.toWord = 0#16 ++ x.code ++ 0#3 ++ BitVec.ofBool x.ide ++ x.dlc := by
  apply BitVec.eq_of_getLsbD_eq
  intro i hi
  simp only [FrCtl.toWord, flagBit, BitVec.getLsbD_append, BitVec.getLsbD_or, BitVec.getLsbD_shiftLeft, BitVec.getLsbD_setWidth]
  interval_cases i <;> simp

/-- FR_RX (R31), the top field first. -/
theorem FrRx.toWord_eq_append (x : FrRx) :
    x.toWord = 0#14 ++ BitVec.ofBool x.srr ++ BitVec.ofBool x.rtr ++ x.ts := by
  apply BitVec.eq_of_getLsbD_eq
  intro i hi
  simp only [FrRx.toWord, flagBit, BitVec.getLsbD_append, BitVec.getLsbD_or, BitVec.getLsbD_shiftLeft, BitVec.getLsbD_setWidth]
  interval_cases i <;> simp

/-- Four bytes in a word, the top byte first (R87). -/
theorem wordOfBytes_eq_append (b3 b2 b1 b0 : Byte) : wordOfBytes b3 b2 b1 b0 = b3 ++ b2 ++ b1 ++ b0 := by
  apply BitVec.eq_of_getLsbD_eq
  intro i hi
  simp only [wordOfBytes, BitVec.getLsbD_append, BitVec.getLsbD_or, BitVec.getLsbD_shiftLeft, BitVec.getLsbD_setWidth]
  interval_cases i <;> simp

/-- A PGN (R89), the top field first. -/
theorem pgnOf_eq_append (r dp : Bool) (pf low : Byte) :
    pgnOf r dp pf low = BitVec.ofBool r ++ BitVec.ofBool dp ++ pf ++ low := by
  apply BitVec.eq_of_getLsbD_eq
  intro i hi
  simp only [pgnOf, flagBit, BitVec.getLsbD_append, BitVec.getLsbD_or, BitVec.getLsbD_shiftLeft, BitVec.getLsbD_setWidth]
  interval_cases i <;> simp

/-- A J1939 identifier (R88), the top field first. -/
theorem idOfFields_eq_append (prio : Byte) (r dp : Bool) (pf ps sa : Byte) :
    idOfFields prio r dp pf ps sa =
      prio.extractLsb' 0 3 ++ BitVec.ofBool r ++ BitVec.ofBool dp ++ pf ++ ps ++ sa := by
  apply BitVec.eq_of_getLsbD_eq
  intro i hi
  simp only [idOfFields, flagBit, BitVec.getLsbD_append, BitVec.getLsbD_or, BitVec.getLsbD_shiftLeft, BitVec.getLsbD_setWidth]
  interval_cases i <;> simp

/-- A legal data-length code has nothing above its low four bits (R131: "dlc in 0 to 8 so that it fits bits [19:16]"). -/
theorem dlc_getLsbD_high (dlc : Byte) (h : dlc.toNat ≤ 8) (i : Nat) (hi : 4 ≤ i) : dlc.getLsbD i = false := by
  rw [BitVec.getLsbD]
  apply Nat.testBit_lt_two_pow
  calc dlc.toNat < 2 ^ 4 := by omega
    _ ≤ 2 ^ i := Nat.pow_le_pow_right (by decide) hi

/-- The CS word of a legal data-length code (R131), the top field first. -/
theorem csWord_eq_append (code : BitVec 4) (ide : Bool) (dlc : Byte) (h : dlc.toNat ≤ 8) :
    csWord code ide dlc =
      0#4 ++ code ++ 0#1 ++ BitVec.ofBool ide ++ BitVec.ofBool ide ++ 0#1 ++ dlc.extractLsb' 0 4 ++ 0#16 := by
  have hd := dlc_getLsbD_high dlc h
  have h4 := hd 4 (by decide)
  have h5 := hd 5 (by decide)
  have h6 := hd 6 (by decide)
  have h7 := hd 7 (by decide)
  clear hd
  apply BitVec.eq_of_getLsbD_eq
  intro i hi
  simp only [csWord, flagBit, BitVec.getLsbD_append, BitVec.getLsbD_or, BitVec.getLsbD_shiftLeft, BitVec.getLsbD_setWidth,
    BitVec.getLsbD_extractLsb']
  interval_cases i <;> simp_all

/-- TQ_LEN of a successful TIMING (R27). -/
theorem lenWord_eq : lenWord = 0x04040803#32 := by decide

/-- TQ_CODE of a successful TIMING (R28). -/
theorem codeWord_eq : codeWord = 0x03030702#32 := by decide

/-- A word read from FR_CTL and written back gives the same fields (R30). -/
theorem FrCtl.ofWord_toWord (x : FrCtl) : FrCtl.ofWord x.toWord = x := by
  obtain ⟨dlc, ide, code⟩ := x
  rw [FrCtl.toWord_eq_append, FrCtl.ofWord, FrCtl.mk.injEq]
  refine ⟨?_, ?_, ?_⟩
  · apply BitVec.eq_of_getLsbD_eq
    intro i hi
    simp only [BitVec.getLsbD_extractLsb', BitVec.getLsbD_append]
    interval_cases i <;> simp
  · simp only [BitVec.getLsbD_append]
    simp
  · apply BitVec.eq_of_getLsbD_eq
    intro i hi
    simp only [BitVec.getLsbD_extractLsb', BitVec.getLsbD_append]
    interval_cases i <;> simp

/-- The index of a register leads back to it (R20). -/
theorem Reg.ofIndex_index (x : Reg) : Reg.ofIndex x.index = some x := by
  cases x with
  | pay k => fin_cases k <;> rfl
  | _ => rfl

end Sys2Proof.Machine
end

