-- ==== Sys2Proof/Laws/Step.lean ====
section
/-! SUPPORT. What a step can do: one lemma per kind of bus cycle, and the inversion of a step. -/

namespace Sys2Proof.Machine

/-- With nothing left to send the port is idle (log entry 3). -/
theorem step_of_nil {s : State} (h : s.script = []) : step s = .next s := by
  simp [step, nextCycle, h]

/-- Otherwise the step is the host's next cycle. -/
theorem step_of_cons {s : State} {c : Cycle} {rest : List Cycle} (h : s.script = c :: rest) :
    step s = busCycle c (s.withScript rest) := by
  simp [step, nextCycle, h]

/-- A reset cycle (R230, R74): the registers are reset; a read presented in it is recorded. -/
theorem busCycle_reset {c : Cycle} (h : c.rst = true) (s : State) :
    busCycle c s =
      .next { regs := Regs.reset, script := s.script,
              reads := if c.valid && !c.write then s.reads ++ [readIndex s.regs c.addr] else s.reads } := by
  unfold busCycle
  cases hv : c.valid && !c.write <;> simp [h] <;> rfl

/-- A read transaction (R62). -/
theorem busCycle_read {c : Cycle} (hr : c.rst = false) (hv : c.valid = true) (hw : c.write = false) (s : State) :
    busCycle c s = .next (s.recordRead (readIndex s.regs c.addr)) := by
  simp [busCycle, hr, hv, hw, readTransaction, hRdata]

/-- A write to CMD runs the command step (R63, R190). -/
theorem busCycle_command {c : Cycle} (hr : c.rst = false) (hv : c.valid = true) (hw : c.write = true) (ha : c.addr = 0#5)
    (s : State) : busCycle c s = commandStep c.wdata s := by
  simp [busCycle, hr, hv, hw, writeTransaction, ha]

/-- A write to any other index (R63). -/
theorem busCycle_write {c : Cycle} (hr : c.rst = false) (hv : c.valid = true) (hw : c.write = true) (ha : c.addr ≠ 0#5)
    (s : State) : busCycle c s = .next (s.withRegs (writeIndex s.regs c.addr c.wdata)) := by
  simp [busCycle, hr, hv, hw, writeTransaction, ha]

/-- A cycle without transaction (R64). -/
theorem busCycle_idle {c : Cycle} (hr : c.rst = false) (hv : c.valid = false) (s : State) : busCycle c s = .next s := by
  simp [busCycle, hr, hv]

/-- The inversion of a step that answers a next state: what the host presented, and what came of it. -/
theorem step_cases {s t : State} (h : step s = .next t) :
    (s.script = [] ∧ t = s) ∨
    ∃ c rest, s.script = c :: rest ∧
      ((c.rst = true ∧ t.regs = Regs.reset ∧ t.script = rest) ∨
       (c.rst = false ∧ c.valid = false ∧ t = s.withScript rest) ∨
       (c.rst = false ∧ c.valid = true ∧ c.write = false ∧
         t = (s.withScript rest).recordRead (readIndex s.regs c.addr)) ∨
       (c.rst = false ∧ c.valid = true ∧ c.write = true ∧ c.addr ≠ 0#5 ∧
         t = (s.withScript rest).withRegs (writeIndex s.regs c.addr c.wdata)) ∨
       (c.rst = false ∧ c.valid = true ∧ c.write = true ∧ c.addr = 0#5 ∧
         commandStep c.wdata (s.withScript rest) = .next t)) := by
  cases hs : s.script with
  | nil =>
    rw [step_of_nil hs] at h
    exact .inl ⟨rfl, (Host.Outcome.next.inj h).symm⟩
  | cons c rest =>
    rw [step_of_cons hs] at h
    refine .inr ⟨c, rest, rfl, ?_⟩
    cases hr : c.rst with
    | true =>
      rw [busCycle_reset hr] at h
      obtain rfl := Host.Outcome.next.inj h
      exact .inl ⟨rfl, rfl, rfl⟩
    | false =>
      cases hv : c.valid with
      | false =>
        rw [busCycle_idle hr hv] at h
        exact .inr (.inl ⟨rfl, rfl, (Host.Outcome.next.inj h).symm⟩)
      | true =>
        cases hw : c.write with
        | false =>
          rw [busCycle_read hr hv hw] at h
          exact .inr (.inr (.inl ⟨rfl, rfl, rfl, (Host.Outcome.next.inj h).symm⟩))
        | true =>
          by_cases ha : c.addr = 0#5
          · rw [busCycle_command hr hv hw ha] at h
            exact .inr (.inr (.inr (.inr ⟨rfl, rfl, rfl, ha, h⟩)))
          · rw [busCycle_write hr hv hw ha] at h
            exact .inr (.inr (.inr (.inl ⟨rfl, rfl, rfl, ha, (Host.Outcome.next.inj h).symm⟩)))

end Sys2Proof.Machine
end

