-- ==== Sys2Proof/Laws/Ops.lean ====
section
/-! SUPPORT. The register table: reads and writes by index as reads and writes by register, and the induction over the 32 indices. -/

namespace Sys2Proof.Machine

/-- A statement about every index is 32 statements (R61: indices 0 to 31). -/
theorem forall_index {P : BitVec 5 → Prop} (h : ∀ n, n < 32 → P (BitVec.ofNat 5 n)) (i : BitVec 5) : P i := by
  have := h i.toNat i.isLt
  rwa [BitVec.ofNat_toNat, BitVec.setWidth_eq] at this

/-- The host's read at a register's own index (R62). -/
theorem readIndex_index (r : Regs) (x : Reg) : readIndex r x.index = r.get x := by
  rw [readIndex, Reg.ofIndex_index]

/-- The host's write at a register's own index (R41). -/
theorem writeIndex_index (r : Regs) (x : Reg) (v : Word) : writeIndex r x.index v = r.store x (v &&& x.keep) := by
  rw [writeIndex, Reg.ofIndex_index]

/-- An index is a register's, and reads and writes go through that register, or it is reserved: it reads 0 and a write does nothing
(R20, R40). -/
theorem index_cases (i : BitVec 5) :
    (∃ x : Reg, i = x.index ∧ Reg.ofIndex i = some x) ∨
      (Reg.ofIndex i = none ∧ ∀ r : Regs, readIndex r i = 0#32 ∧ ∀ v, writeIndex r i v = r) := by
  cases h : Reg.ofIndex i with
  | none => exact .inr ⟨rfl, fun r => ⟨by rw [readIndex, h], fun v => by rw [writeIndex, h]⟩⟩
  | some x =>
    refine .inl ⟨x, ?_, rfl⟩
    revert h
    revert i
    refine forall_index fun n hn => ?_
    interval_cases n <;> intro h <;> cases h <;> rfl

/-- A host write ignored by a register (R20: RO and WO). -/
theorem store_of_not_rw (r : Regs) {x : Reg} (h : x.access ≠ .rw) (m : Word) : r.store x m = r := by
  cases x <;> first | rfl | exact absurd rfl h

/-- What every command answers: a next state that differs in the registers only. -/
theorem exec_eq_withRegs (i : Instr) (s : State) : ∃ r : Regs, exec i s = .next (s.withRegs r) := by
  cases i <;> exact ⟨_, rfl⟩

/-- What every command word answers. -/
theorem commandStep_eq_withRegs (w : Word) (s : State) : ∃ r : Regs, commandStep w s = .next (s.withRegs r) := by
  cases h : decode w with
  | ok i => rw [commandStep_of_decode h]; exact exec_eq_withRegs i s
  | error e => rw [commandStep_of_illegal h]; exact ⟨_, rfl⟩

/-- What every bus cycle answers: the host's remaining cycles stay as they were handed in. -/
theorem busCycle_script (c : Cycle) (s : State) : ∃ t, busCycle c s = .next t ∧ t.script = s.script := by
  cases hr : c.rst with
  | true => rw [busCycle_reset hr]; exact ⟨_, rfl, rfl⟩
  | false =>
    cases hv : c.valid with
    | false => rw [busCycle_idle hr hv]; exact ⟨_, rfl, rfl⟩
    | true =>
      cases hw : c.write with
      | false => rw [busCycle_read hr hv hw]; exact ⟨_, rfl, rfl⟩
      | true =>
        by_cases ha : c.addr = 0#5
        · rw [busCycle_command hr hv hw ha]
          obtain ⟨r, hc⟩ := commandStep_eq_withRegs c.wdata s
          exact ⟨_, hc, rfl⟩
        · rw [busCycle_write hr hv hw ha]; exact ⟨_, rfl, rfl⟩

end Sys2Proof.Machine
end

