-- ==== Sys2Proof/Laws/PerInstr.lean ====
section
/-! SUPPORT. Per-instruction statements about the syntax: every command's encoding is a legal word whose value is its opcode (R80, R83). -/

namespace Sys2Proof.Laws.LegalEncoding

/-- The encoding of a well-formed command passes both checks of R83, and as a number it is the opcode (R80, R81). -/
def Statement (i : Instr) : Prop :=
  i.wf = true → legalWord (encode i) = true ∧ (encode i).toNat = i.opcode.toNat

theorem nop : Statement .nop := by unfold Statement; decide

theorem timing : Statement .timing := by unfold Statement; decide

theorem fenc : Statement .fenc := by unfold Statement; decide

theorem fdec : Statement .fdec := by unfold Statement; decide

theorem jenc : Statement .jenc := by unfold Statement; decide

theorem jdec : Statement .jdec := by unfold Statement; decide

theorem clr : Statement .clr := by unfold Statement; decide

end Sys2Proof.Laws.LegalEncoding
end

