-- ==== Sys2Proof/Tests/Slice0.lean ====
section
/-! SUPPORT. Tests of single steps on vectors of spec/95_test_vectors.md, the well-formedness smoke tests, and a witness for the
hypotheses of every statement that has some. -/

namespace Sys2Proof.Tests

open Sys2Proof.Machine

/-! ### Helpers -/

/-- The reset state after some host writes, each an index and a value. -/
def written (ws : List (Nat × Nat)) : State :=
  State.reset.withRegs (ws.foldl (fun r p => writeIndex r (BitVec.ofNat 5 p.1) (BitVec.ofNat 32 p.2)) Regs.reset)

/-- A state with another STATUS. -/
def withStatus (s : State) (code lastop : BitVec 4) (serr : Bool) : State :=
  s.withRegs { s.regs with status := { code := code, lastop := lastop, serr := serr } }

/-- The outcome is a next state in which the host would read these values. -/
def shows (o : Host.Outcome State Fault Refusal) (xs : List (Nat × Nat)) : Bool :=
  match o with
  | .next t => xs.all fun p => (readIndex t.regs (BitVec.ofNat 5 p.1)).toNat == p.2
  | .fault _ => false
  | .refused _ => false

/-- The outcome is a next state with these recorded reads. -/
def recorded (o : Host.Outcome State Fault Refusal) (vs : List Nat) : Bool :=
  match o with
  | .next t => t.reads.map BitVec.toNat == vs
  | .fault _ => false
  | .refused _ => false

/-- The payload registers PAY0 to PAY7 with these bytes, for `written` and `shows` (R32). -/
def pays (bs : List Nat) : List (Nat × Nat) := bs.mapIdx fun k b => (12 + k, b)

/-- A state whose host has one write to put on the port. -/
def aboutToWrite (s : State) (i : BitVec 5) (v : Word) : State := s.withScript [hostWrite i v]

/-- A reset cycle, with a transaction presented in it. -/
def resetCycle (valid write : Bool) (i : BitVec 5) (v : Word) : Cycle :=
  { rst := true, valid := valid, write := write, addr := i, wdata := v }

/-! ### Decoding: the words of R80 and R81, bit 31 first -/

theorem test_decode_nop : decode 0b00000000000000000000000000000000#32 = .ok .nop := by decide
theorem test_decode_timing : decode 0b00000000000000000000000000000001#32 = .ok .timing := by decide
theorem test_decode_fenc : decode 0b00000000000000000000000000000010#32 = .ok .fenc := by decide
theorem test_decode_fdec : decode 0b00000000000000000000000000000011#32 = .ok .fdec := by decide
theorem test_decode_jenc : decode 0b00000000000000000000000000000100#32 = .ok .jenc := by decide
theorem test_decode_jdec : decode 0b00000000000000000000000000000101#32 = .ok .jdec := by decide
theorem test_decode_clr : decode 0b00000000000000000000000000000110#32 = .ok .clr := by decide

/-- R83: the first reserved opcode and the last. -/
theorem test_decode_reserved :
    decode 0b00000000000000000000000000000111#32 = .error .reservedOpcode ∧
      decode 0b00000000000000000000000000001111#32 = .error .reservedOpcode := by decide

/-- R83: a legal opcode under a set upper bit (ST6, ST8). -/
theorem test_decode_upper_bits :
    decode 0b00000000000000000000000000010000#32 = .error .upperBitsSet ∧
      decode 0b10000000000000000000000000000001#32 = .error .upperBitsSet := by decide

/-- The numbering of spec/opcode_table.json. -/
theorem test_table_word :
    decodeTableWord 32 0x00000004 = some .jenc ∧ decodeTableWord 32 0x00000016 = none ∧ decodeTableWord 8 0x06 = some .clr := by
  decide

/-! ### Well-formedness: one ill-formed term for each check, refused -/

theorem test_upper_bits_check_refuses : upperBitsZero 0x00000010#32 = false ∧ legalWord 0x00000010#32 = false := by decide

theorem test_opcode_check_refuses : opcodeAssigned 0x00000007#32 = false ∧ legalWord 0x00000007#32 = false := by decide

theorem test_every_command_is_well_formed :
    ∀ i ∈ [Instr.nop, .timing, .fenc, .fdec, .jenc, .jdec, .clr], i.wf = true := by decide

/-- R92: PAYLOAD takes 0 to 8 bytes. -/
theorem test_payload_check_refuses :
    (ScriptLine.payload (List.replicate 9 1#32)).wf = false ∧ (ScriptLine.payload (List.replicate 9 1#32)).cycles = none := by
  decide

/-- R91: a value is a 32-bit number; 4096 times 2^20 is none. -/
theorem test_frame_check_refuses :
    (ScriptLine.frame 0#32 0#32 0#32 0x00100000#32).wf = false ∧
      (ScriptLine.frame 0#32 0#32 0#32 0x00100000#32).cycles = none := by decide

/-! ### Instructions, one step each -/

/-- ST2. -/
theorem test_nop_keeps_sticky_error : shows (exec .nop (withStatus State.reset 1#4 4#4 true)) [(1, 0x100)] = true := by decide

/-- T10: the largest prescaler, inexact. -/
theorem test_timing_largest_prescaler :
    shows (exec .timing (written [(2, 80000000), (3, 19531)]))
      [(1, 0x10), (4, 0x00004C4B), (5, 0xFF010100), (6, 0x04040803), (7, 0x03030702)] = true := by decide

/-- T24: the product is 2^32 exactly, so the prescaler is 0. -/
theorem test_timing_exact_product :
    shows (exec .timing (written [(2, 4294967295), (3, 268435456)])) [(1, 0x111), (4, 0), (5, 0), (6, 0), (7, 0)] = true := by decide

/-- E4: a Standard identifier is masked, the bytes from dlc on are packed as 0. -/
theorem test_fenc_standard :
    shows (exec .fenc (written ((8, 0xFFF) :: (9, 0xC003) :: pays [0xDE, 0xAD, 0xBE, 0xEF, 1, 2, 3, 4])))
      [(1, 0x20), (20, 0x0C030000), (21, 0x1FFC0000), (22, 0xDEADBE00), (23, 0)] = true := by decide

/-- E6: dlc 9. -/
theorem test_fenc_dlc_nine :
    shows (exec .fenc (written [(8, 0x123), (9, 0xC009)])) [(1, 0x121), (20, 0), (21, 0), (8, 0x123), (9, 0xC009)] = true := by
  decide

/-- D2: Extended, with a timestamp. -/
theorem test_fdec_extended :
    shows (exec .fdec (written [(20, 0x02681234), (21, 0x0CFEF117), (22, 0x11223344), (23, 0x55667788)]))
      ([(1, 0x30), (8, 0x0CFEF117), (9, 0x2108), (10, 0x21234)] ++
        pays [0x11, 0x22, 0x33, 0x44, 0x55, 0x66, 0x77, 0x88]) = true := by decide

/-- D6: Standard in spite of SRR and RTR, DLC field 15 returned raw. -/
theorem test_fdec_standard :
    shows (exec .fdec (written [(20, 0x065F0001), (21, 0xE48C0000), (22, 0x01020304), (23, 0x05060708)]))
      ([(1, 0x30), (8, 0x123), (9, 0x600F), (10, 0x30001)] ++ pays [1, 2, 3, 4, 5, 6, 7, 8]) = true := by decide

/-- JE4: PDU1, the low byte of the PGN is ignored. -/
theorem test_jenc_pdu1 :
    shows (exec .jenc (written [(24, 6), (25, 0x0EAFF), (26, 0x17), (27, 0x2A), (9, 3)]))
      [(1, 0x40), (8, 0x18EA2A17), (9, 0x103)] = true := by decide

/-- JE17 and the boundary of R162: PF = 240 is PDU2. -/
theorem test_jenc_pdu2_boundary :
    shows (exec .jenc (written [(24, 0), (25, 0x0F000), (26, 0), (27, 0x99), (9, 8)])) [(1, 0x40), (8, 0x00F00000)] = true := by
  decide

/-- JD2: PDU1. -/
theorem test_jdec_pdu1 :
    shows (exec .jdec (written [(8, 0x18EA2A17), (9, 0x100)]))
      [(1, 0x50), (24, 6), (25, 0x0EA00), (26, 0x17), (27, 0x2A)] = true := by decide

/-- JD18: a Standard Frame. -/
theorem test_jdec_standard :
    shows (exec .jdec (written [(8, 0x0CFEF117), (9, 8)])) [(1, 0x152), (24, 0), (25, 0), (26, 0), (27, 0)] = true := by decide

/-- ST9. -/
theorem test_clr_clears_status :
    shows (exec .clr (withStatus (written [(2, 5), (20, 7)]) 2#4 5#4 true)) [(1, 0), (2, 0), (20, 0)] = true := by decide

/-! ### The host port, one step each -/

/-- ST7: an illegal word with CLR's low nibble clears nothing. -/
theorem test_illegal_word :
    shows (step (aboutToWrite (withStatus (written [(2, 5)]) 0#4 1#4 false) 0#5 0x16#32)) [(1, 0x161), (2, 5)] = true := by decide

/-- H3: the bits FR_CTL keeps. -/
theorem test_write_fr_ctl : shows (step (aboutToWrite State.reset 9#5 0xFFFFFFFF#32)) [(9, 0xF1FF)] = true := by decide

/-- H8 and H10: a read-only register and a reserved index ignore a write. -/
theorem test_write_ignored :
    shows (step (aboutToWrite State.reset 1#5 0x100#32)) [(1, 0)] = true ∧
      shows (step (aboutToWrite State.reset 31#5 0xFFFFFFFF#32)) [(31, 0), (1, 0)] = true := by decide

/-- H4: the host's read returns the byte kept. -/
theorem test_read_pay3 : recorded (step ((written [(15, 0x12345678)]).withScript [hostRead 15#5])) [0x78] = true := by decide

/-- H15: reset wins over the write presented in the same cycle. -/
theorem test_reset_wins :
    shows (step ((written [(2, 7), (21, 9)]).withScript [resetCycle true true 2#5 5#32])) [(2, 0), (21, 0)] = true := by decide

/-- A word placed for the next step runs as the first command after reset; T15 gives the result of TIMING there. -/
theorem test_fetch_word : shows (step (State.reset.withFetchWord 32 1)) [(1, 0x111)] = true := by decide

/-- R92: FRAME writes dlc + 256 * ide + 4096 * code to FR_CTL (line 12 of program B writes 0xC008). -/
theorem test_frame_line :
    (ScriptLine.frame 0x123#32 0#32 8#32 12#32).cycles = some [hostWrite 8#5 0x123#32, hostWrite 9#5 0xC008#32] := by decide

/-! ### Witnesses: the hypotheses of every statement, met together -/

theorem witness_wordIsCommand_reserved : 7 ≤ (0x00000007#32 : Word).toNat % 16 ∧ 7 ≤ (0xFFFFFFFF#32 : Word).toNat % 16 := by decide

theorem witness_decodeAndEncodeAgree : Instr.jdec.wf = true ∧ decode 5#32 = .ok .jdec := by decide

theorem witness_illegalWord : 7 ≤ (7#32 : Word).toNat ∧ 7 ≤ (0x10#32 : Word).toNat ∧ 7 ≤ (0xFFFFFFFF#32 : Word).toNat := by decide

theorem witness_stepRunsTheCommandWritten :
    (aboutToWrite State.reset 0#5 4#32).script =
        { rst := false, valid := true, write := true, addr := 0#5, wdata := 4#32 } :: [] ∧
      decode 4#32 = .ok .jenc := by decide

/-- The clauses of the write: a register that keeps some bits, one that is read-only, a reserved index, the last index. -/
theorem witness_hostWriteIsMasked :
    (9#5 : BitVec 5) ≠ 0#5 ∧ Spec.keptOnWrite 9 = some 0xF1FF ∧
      (1#5 : BitVec 5) ≠ 0#5 ∧ Spec.keptOnWrite 1 = none ∧
      (11#5 : BitVec 5) ≠ 0#5 ∧ Spec.keptOnWrite 11 = none ∧
      (31#5 : BitVec 5) ≠ 0#5 ∧ Spec.keptOnWrite 31 = none ∧
      (aboutToWrite State.reset 9#5 0xFFFFFFFF#32).script =
        { rst := false, valid := true, write := true, addr := 9#5, wdata := 0xFFFFFFFF#32 } :: [] := by decide

theorem witness_hostRead :
    (State.reset.withScript [hostRead 1#5]).script =
        { rst := false, valid := true, write := false, addr := 1#5, wdata := 0#32 } :: [] ∧
      ((0#5 : BitVec 5) = 0#5 ∨ (0#5 : BitVec 5) = 11#5 ∨ 28 ≤ (0#5 : BitVec 5).toNat) ∧
      ((11#5 : BitVec 5) = 0#5 ∨ (11#5 : BitVec 5) = 11#5 ∨ 28 ≤ (11#5 : BitVec 5).toNat) ∧
      ((28#5 : BitVec 5) = 0#5 ∨ (28#5 : BitVec 5) = 11#5 ∨ 28 ≤ (28#5 : BitVec 5).toNat) := by decide

theorem witness_hostViewDetermines : ∀ i : BitVec 5, readIndex State.reset.regs i = readIndex (written []).regs i := fun _ => rfl

/-- An idle cycle, and a step that changes a register. -/
theorem witness_onlyResetAndWritesChange :
    (State.reset.withScript [⟨false, false, true, 2#5, 5#32⟩]).script = [⟨false, false, true, 2#5, 5#32⟩] ∧
      ∃ t, step (aboutToWrite State.reset 2#5 5#32) = .next t ∧ t.regs ≠ (aboutToWrite State.reset 2#5 5#32).regs :=
  ⟨rfl, _, rfl, by decide⟩

theorem witness_reset :
    ((written [(2, 7)]).withScript [resetCycle true true 2#5 5#32]).script = [resetCycle true true 2#5 5#32] ∧
      (resetCycle true true 2#5 5#32).rst = true := by decide

/-- A read presented in a reset cycle, and a write. -/
theorem witness_readInResetCycle :
    (∃ t, step ((written [(2, 7)]).withScript [resetCycle true false 2#5 0#32]) = .next t ∧
      ((resetCycle true false 2#5 0#32).valid && !(resetCycle true false 2#5 0#32).write) = true) ∧
    ∃ t, step ((written [(2, 7)]).withScript [resetCycle true true 2#5 5#32]) = .next t ∧
      ((resetCycle true true 2#5 5#32).valid && !(resetCycle true true 2#5 5#32).write) = false :=
  ⟨⟨_, rfl, rfl⟩, ⟨_, rfl, rfl⟩⟩

theorem witness_equalRegisters :
    ∃ s u t : State, s ≠ u ∧ s.regs = u.regs ∧ s.script = u.script ∧ Host.Core.run core 2 s = .next t :=
  ⟨State.reset.withScript [hostWrite 2#5 5#32, hostRead 2#5],
    (State.reset.withScript [hostWrite 2#5 5#32, hostRead 2#5]).recordRead 9#32, _, by decide, rfl, rfl, rfl⟩

theorem witness_errorCompletion : ∃ t, commandStep 7#32 State.reset = .next t ∧ t.regs.status.code ≠ 0#4 :=
  ⟨_, rfl, by decide⟩

theorem witness_successKeeps :
    ∃ t, commandStep 0#32 (withStatus State.reset 1#4 4#4 true) = .next t ∧ t.regs.status.code = 0#4 ∧ (0#32 : Word) ≠ 6#32 :=
  ⟨_, rfl, by decide, by decide⟩

/-- Both ways to clear the sticky error. -/
theorem witness_onlyResetAndClrClear :
    (∃ s t : State, step s = .next t ∧ s.regs.status.serr = true ∧ t.regs.status.serr = false ∧ s.script = [hostWrite 0#5 6#32]) ∧
    ∃ s t : State, step s = .next t ∧ s.regs.status.serr = true ∧ t.regs.status.serr = false ∧
      s.script = [resetCycle false false 0#5 0#32] :=
  ⟨⟨(withStatus State.reset 1#4 4#4 true).withScript [hostWrite 0#5 6#32], _, rfl, rfl, rfl, rfl⟩,
    ⟨(withStatus State.reset 1#4 4#4 true).withScript [resetCycle false false 0#5 0#32], _, rfl, rfl, rfl, rfl⟩⟩

theorem witness_clearStickyError :
    ∃ s t : State, s.regs.status.serr = false ∧ s.regs.status.code = 0#4 ∧
      (∀ c ∈ s.script.take 2, c.rst = false ∧ ¬(c.valid = true ∧ c.write = true ∧ c.addr = 0#5 ∧ c.wdata = 6#32)) ∧
      Host.Core.run core 2 s = .next t ∧ t.regs.status.serr = false :=
  ⟨State.reset.withScript [hostWrite 2#5 5#32, hostWrite 0#5 3#32], _, rfl, rfl, by decide, rfl, rfl⟩

/-- The clauses of the frame: an index outside the results, an error completion, JENC. -/
theorem witness_commandsWriteOnlyTheirResults :
    (∃ t, exec .fenc State.reset = .next t ∧ (8#5 : BitVec 5).toNat ∉ Spec.resultIndices .fenc) ∧
    (∃ t, exec .jdec State.reset = .next t ∧ t.regs.status.code ≠ 0#4 ∧ (24#5 : BitVec 5) ≠ 1#5) ∧
    ∃ t, exec .jenc State.reset = .next t :=
  ⟨⟨_, rfl, by decide⟩, ⟨_, rfl, by decide, by decide⟩, ⟨_, rfl⟩⟩

/-- Two states that differ, yet agree on the operands of every command, with an Ok completion of each. -/
theorem witness_commandsReadOnlyTheirOperands :
    ∃ s u : State, s ≠ u ∧ s.regs.clkHz = u.regs.clkHz ∧ s.regs.bitrate = u.regs.bitrate ∧ s.regs.fr.id = u.regs.fr.id ∧
      s.regs.fr.ctl = u.regs.fr.ctl ∧ s.regs.fr.pay = u.regs.fr.pay ∧ s.regs.mb = u.regs.mb ∧ s.regs.j = u.regs.j ∧
      shows (exec .timing s) [(1, 0x10)] = true ∧ shows (exec .fenc s) [(1, 0x20)] = true ∧
      shows (exec .fdec s) [(1, 0x30)] = true ∧ shows (exec .jenc s) [(1, 0x40)] = true ∧
      shows (exec .jdec s) [(1, 0x50)] = true :=
  ⟨written [(2, 16), (3, 1), (9, 0x108)], withStatus (written [(2, 16), (3, 1), (9, 0x108)]) 2#4 5#4 true,
    by decide, rfl, rfl, rfl, rfl, rfl, rfl, rfl, by decide, by decide, by decide, by decide, by decide⟩

theorem witness_stepKeepsTheInvariant :
    ∃ t, BlockInv (aboutToWrite (written [(2, 16), (3, 1)]) 0#5 1#32) ∧
      step (aboutToWrite (written [(2, 16), (3, 1)]) 0#5 1#32) = .next t :=
  ⟨_, by decide, rfl⟩

theorem witness_onlyTimingClrAndReset :
    ∃ s t : State, step s = .next t ∧ t.regs.tq ≠ s.regs.tq ∧ s.script = [hostWrite 0#5 1#32] :=
  ⟨aboutToWrite (written [(2, 16), (3, 1)]) 0#5 1#32, _, rfl, by decide, rfl⟩

theorem witness_onlyFdecClrAndReset :
    ∃ s t : State, step s = .next t ∧ t.regs.fr.rx ≠ s.regs.fr.rx ∧ s.script = [hostWrite 0#5 3#32] :=
  ⟨aboutToWrite (written [(20, 1)]) 0#5 3#32, _, rfl, by decide, rfl⟩

/-- The boundary indices of the three groups. -/
theorem witness_operandWrites :
    (∃ t, step (aboutToWrite State.reset 19#5 5#32) = .next t ∧ ((19#5 : BitVec 5).toNat < 20 ∨ 23 < (19#5 : BitVec 5).toNat)) ∧
    (∃ t, step (aboutToWrite State.reset 24#5 5#32) = .next t ∧ ((24#5 : BitVec 5).toNat < 20 ∨ 23 < (24#5 : BitVec 5).toNat)) ∧
    (∃ t, step (aboutToWrite State.reset 7#5 5#32) = .next t ∧ ((7#5 : BitVec 5).toNat < 8 ∨ 19 < (7#5 : BitVec 5).toNat)) ∧
    (∃ t, step (aboutToWrite State.reset 20#5 5#32) = .next t ∧ ((20#5 : BitVec 5).toNat < 8 ∨ 19 < (20#5 : BitVec 5).toNat)) ∧
    ∃ t, step (aboutToWrite State.reset 23#5 5#32) = .next t ∧ (23#5 : BitVec 5).toNat < 24 :=
  ⟨⟨_, rfl, by decide⟩, ⟨_, rfl, by decide⟩, ⟨_, rfl, by decide⟩, ⟨_, rfl, by decide⟩, ⟨_, rfl, by decide⟩⟩

theorem witness_computeTiming : (0xFFFFFFFF#32 : Word) ≠ 0#32 ∧ 2 ^ 28 ≤ (0x10000000#32 : Word).toNat := by decide

/-- The first and the last clock in range, and the clocks just outside, for bit rate 1 (T16, T21, T17, T22). -/
theorem witness_timingCompletes :
    (16 * (written [(2, 16), (3, 1)]).regs.bitrate.toNat ≤ (written [(2, 16), (3, 1)]).regs.clkHz.toNat ∧
      (written [(2, 16), (3, 1)]).regs.clkHz.toNat < 4112 * (written [(2, 16), (3, 1)]).regs.bitrate.toNat) ∧
    (16 * (written [(2, 4111), (3, 1)]).regs.bitrate.toNat ≤ (written [(2, 4111), (3, 1)]).regs.clkHz.toNat ∧
      (written [(2, 4111), (3, 1)]).regs.clkHz.toNat < 4112 * (written [(2, 4111), (3, 1)]).regs.bitrate.toNat) ∧
    (written [(2, 15), (3, 1)]).regs.clkHz.toNat < 16 * (written [(2, 15), (3, 1)]).regs.bitrate.toNat ∧
    4112 * (written [(2, 4112), (3, 1)]).regs.bitrate.toNat ≤ (written [(2, 4112), (3, 1)]).regs.clkHz.toNat := by decide

theorem witness_timingResultLaws :
    ∃ t, exec .timing (written [(2, 4097), (3, 1)]) = .next t ∧ t.regs.status.code = 0#4 :=
  ⟨_, rfl, by decide⟩

/-- Both sides of the length check (E14 has 7; here 8 and 9), with the bytes that the definition of `b` fixes. -/
theorem witness_fencCompletes :
    ((written [(9, 8)]).regs.fr.ctl.dlc.toNat ≤ 8 ∧
      ∀ k : Fin 8, (fun _ => 0#8 : Fin 8 → Byte) k =
        if k.val < (written [(9, 8)]).regs.fr.ctl.dlc.toNat then (written [(9, 8)]).regs.fr.pay[k] else 0x00#8) ∧
    8 < (written [(9, 9)]).regs.fr.ctl.dlc.toNat := by decide

/-- Standard images that differ in every ignored bit, and Extended ones (the rows of FDEC ignore CS [31:28] and [23], R85). -/
theorem witness_fdecIgnores :
    (0x0F5F0001#32 : Word) &&& 0x0F7FFFFF#32 = 0xFFDF0001#32 &&& 0x0F7FFFFF#32 ∧
      (0x0F5F0001#32 : Word).getLsbD 21 = false ∧ (0x048C0000#32 : Word) &&& 0x1FFC0000#32 = 0xE48FFFFF#32 &&& 0x1FFC0000#32 ∧
      (0x02681234#32 : Word) &&& 0x0F7FFFFF#32 = 0xF2E81234#32 &&& 0x0F7FFFFF#32 ∧
      (0x02681234#32 : Word).getLsbD 21 = true ∧ (0x0CFEF117#32 : Word) &&& 0x1FFFFFFF#32 = 0xECFEF117#32 &&& 0x1FFFFFFF#32 ∧
      shows (exec .fdec (written [(20, 0x0F5F0001), (21, 0x048C0000)])) [] = true ∧
      shows (exec .fdec (written [(20, 0xFFDF0001), (21, 0xE48FFFFF)])) [] = true := by decide

theorem witness_identifierPlacement :
    (∃ m, frameEncode 0xFFF#29 false 8#8 (Vector.replicate 8 1#8) 12#4 = .ok m) ∧
      ∃ m, frameEncode 0x1FFFFFFF#29 true 0#8 (Vector.replicate 8 1#8) 12#4 = .ok m :=
  ⟨⟨_, rfl⟩, ⟨_, rfl⟩⟩

/-- dlc 8 on the way out; DLC fields 8 and 9 on the way back. -/
theorem witness_frameCodecRoundTrips :
    (8#8 : Byte).toNat ≤ 8 ∧ ((0x02681234#32 : Word).extractLsb' 16 4).toNat ≤ 8 ∧
      8 < ((0x02191234#32 : Word).extractLsb' 16 4).toNat := by decide

/-- The last legal priority and length, and the first illegal ones. -/
theorem witness_jencCompletes :
    ((written [(24, 7), (9, 8)]).regs.j.prio.toNat ≤ 7 ∧ (written [(24, 7), (9, 8)]).regs.fr.ctl.dlc.toNat ≤ 8) ∧
      7 < (written [(24, 8), (9, 8)]).regs.j.prio.toNat ∧ 8 < (written [(24, 7), (9, 9)]).regs.fr.ctl.dlc.toNat := by decide

/-- PF = 239 and PF = 240. -/
theorem witness_identifierAssembly :
    (∃ id, j1939Encode 7#8 0x0EFFF#18 0#8 0x99#8 8#8 = .ok id ∧ ((0x0EFFF#18).extractLsb' 8 8).toNat = 239) ∧
      ∃ id, j1939Encode 0#8 0x0F000#18 0#8 0x99#8 8#8 = .ok id ∧ 240 ≤ ((0x0F000#18).extractLsb' 8 8).toNat :=
  ⟨⟨_, rfl, rfl⟩, ⟨_, rfl, by decide⟩⟩

/-- An Extended Frame and a Standard one, with the bytes that the definitions of `pf` and `ps` fix. -/
theorem witness_jdecCompletes :
    ((written [(8, 0x18EFFF80), (9, 0x100)]).regs.fr.ctl.ide = true ∧
      0xEF#8 = (written [(8, 0x18EFFF80), (9, 0x100)]).regs.fr.id.extractLsb' 16 8 ∧
      0xFF#8 = (written [(8, 0x18EFFF80), (9, 0x100)]).regs.fr.id.extractLsb' 8 8) ∧
    (written [(8, 0x0CFEF117), (9, 8)]).regs.fr.ctl.ide = false := by decide

/-- The largest legal priority and length, and two equal decodes. -/
theorem witness_j1939RoundTrips :
    (7#8 : Byte).toNat ≤ 7 ∧ (8#8 : Byte).toNat ≤ 8 ∧
      j1939Decode 0x0CFEF117#29 true = j1939Decode 0x0CFEF117#29 true := ⟨by decide, by decide, rfl⟩

/-- A PDU1 frame and a PDU2 frame. -/
theorem witness_transmitThenReceive :
    ((written [(24, 6), (25, 0xEAFF), (9, 3)]).regs.j.prio.toNat ≤ 7 ∧
      (written [(24, 6), (25, 0xEAFF), (9, 3)]).regs.fr.ctl.dlc.toNat ≤ 8 ∧
      ¬240 ≤ ((written [(24, 6), (25, 0xEAFF), (9, 3)]).regs.j.pgn.extractLsb' 8 8).toNat) ∧
    (written [(24, 7), (25, 0xF000), (9, 8)]).regs.j.prio.toNat ≤ 7 ∧
      (written [(24, 7), (25, 0xF000), (9, 8)]).regs.fr.ctl.dlc.toNat ≤ 8 ∧
      240 ≤ ((written [(24, 7), (25, 0xF000), (9, 8)]).regs.j.pgn.extractLsb' 8 8).toNat := by decide

theorem witness_clrCompletesLikeReset :
    ∃ u, (resetCycle false false 0#5 0#32).rst = true ∧ busCycle (resetCycle false false 0#5 0#32) State.reset = .next u :=
  ⟨_, rfl, rfl⟩

theorem witness_scriptLinesExpand :
    (List.replicate 8 1#32 : List Word).length ≤ 8 ∧
      (255#32 : Word).toNat + 256 * (1#32 : Word).toNat + 4096 * (15#32 : Word).toNat < 2 ^ 32 := by decide

end Sys2Proof.Tests
end

/-! PROOF. O26, the frame of the TimingConfig (R10): no host write of a register and no command but TIMING and CLR changes TQ_RATE,
TQ_PRESC, TQ_LEN or TQ_CODE. -/

namespace Sys2Proof.Machine

/-- A word that decodes to a command is that command's encoding (R80, R81). -/
theorem eq_encode_of_decode {w : Word} {i : Instr} (h : decode w = .ok i) : w = encode i := by
  obtain ⟨e, he, -⟩ | ⟨j, hj, hlegal, hop⟩ := decode_cases w
  · simp [h] at he
  · obtain rfl : i = j := Except.ok.inj (h.symm.trans hj)
    have hupper : w.extractLsb' 4 28 = 0#28 := by
      simp only [legalWord, upperBitsZero, Bool.and_eq_true, beq_iff_eq] at hlegal
      exact hlegal.1
    calc w = w.extractLsb' 0 32 := BitVec.extractLsb'_eq_self.symm
      _ = w.extractLsb' 4 28 ++ opcodeField w :=
          (BitVec.extractLsb'_append_extractLsb'_eq_extractLsb' (start₁ := 0) (len₁ := 4) (len₂ := 28) rfl).symm
      _ = encode i := by rw [hupper, hop, encode]

/-- A completion keeps every part of the registers that neither STATUS nor the body's writes touch (R202, R203). -/
theorem completeCommand_keeps {α : Type} {f : Regs → α} (hstatus : ∀ (r : Regs) (st : Status), f { r with status := st } = f r)
    (op : BitVec 4) (r : Regs) {res : Except ResultCode Regs} (hbody : ∀ q, res = .ok q → f q = f r) :
    f (completeCommand op r res) = f r := by
  obtain ⟨q, hq, hc⟩ | ⟨c, -, hc⟩ := completeCommand_cases op r res
  · rw [hc, okCompletion, hstatus, hbody q hq]
  · rw [hc, errorCompletion, hstatus]

/-- The four registers of the TimingConfig are read-only for the host (R10, R20, R41). -/
@[simp] theorem Regs.store_tq (r : Regs) (x : Reg) (m : Word) : (r.store x m).tq = r.tq := by
  cases x <;> rfl

/-- No host write, at whatever index, changes the TimingConfig (R10, R41). -/
@[simp] theorem writeIndex_tq (r : Regs) (i : BitVec 5) (v : Word) : (writeIndex r i v).tq = r.tq := by
  obtain ⟨x, rfl, -⟩ | ⟨-, hreserved⟩ := index_cases i
  · rw [writeIndex_index, Regs.store_tq]
  · rw [(hreserved r).2]

/-- A command whose body leaves the TimingConfig alone leaves it alone. -/
theorem finishCommand_tq {op : BitVec 4} {s t : State} {res : Except ResultCode Regs} (h : finishCommand op s res = .next t)
    (hbody : ∀ q, res = .ok q → q.tq = s.regs.tq) : t.regs.tq = s.regs.tq := by
  rw [finishCommand_eq_next_iff] at h
  rw [h, State.withRegs_regs]
  exact completeCommand_keeps (fun _ _ => rfl) op s.regs hbody

/-- Every command but TIMING and CLR leaves the TimingConfig alone (R42). -/
theorem exec_tq {i : Instr} {s t : State} (h : exec i s = .next t) (htiming : i ≠ .timing) (hclr : i ≠ .clr) :
    t.regs.tq = s.regs.tq := by
  cases i with
  | timing => exact absurd rfl htiming
  | clr => exact absurd rfl hclr
  | nop => exact finishCommand_tq h fun q hq => by cases hq; rfl
  | fdec => exact finishCommand_tq h fun q hq => by cases hq; rfl
  | fenc =>
    refine finishCommand_tq h fun q hq => ?_
    obtain ⟨-, m, -, hb⟩ | ⟨-, hb⟩ := fencBody_cases s.regs <;> cases hb.symm.trans hq
    rfl
  | jenc =>
    refine finishCommand_tq h fun q hq => ?_
    obtain ⟨-, id, -, hb⟩ | ⟨-, hb⟩ := jencBody_cases s.regs <;> cases hb.symm.trans hq
    rfl
  | jdec =>
    refine finishCommand_tq h fun q hq => ?_
    obtain ⟨-, f, -, hb⟩ | ⟨-, hb⟩ := jdecBody_cases s.regs <;> cases hb.symm.trans hq
    rfl

/-- A command step that changes the TimingConfig is the one of TIMING's word or of CLR's (R10, R193). -/
theorem word_of_commandStep_tq_ne {w : Word} {s t : State} (h : commandStep w s = .next t) (hne : t.regs.tq ≠ s.regs.tq) :
    w = encode .timing ∨ w = encode .clr := by
  cases hd : decode w with
  | error e =>
    rw [commandStep_of_illegal hd] at h
    exact absurd (finishCommand_tq h nofun) hne
  | ok i =>
    rw [commandStep_of_decode hd] at h
    rw [eq_encode_of_decode hd]
    by_cases htiming : i = .timing
    · exact .inl (by rw [htiming])
    · by_cases hclr : i = .clr
      · exact .inr (by rw [hclr])
      · exact absurd (exec_tq h htiming hclr) hne

/-- Settles O26, by the kinds of bus cycle: all but a reset and a CMD write keep the TimingConfig, and a CMD write keeps it for every
word but the two. -/
theorem onlyTimingClrAndResetChangeTheTimingConfig : Obligations.OnlyTimingClrAndResetChangeTheTimingConfig := by
  intro s t h hne
  obtain ⟨-, rfl⟩ | ⟨c, rest, hs, hcycle⟩ := step_cases h
  · exact absurd rfl hne
  refine ⟨c, rest, hs, ?_⟩
  obtain ⟨hrst, -, -⟩ | ⟨-, -, rfl⟩ | ⟨-, -, -, rfl⟩ | ⟨-, -, -, -, rfl⟩ | ⟨-, hvalid, hwrite, haddr, hcmd⟩ := hcycle
  · exact .inl hrst
  · exact absurd (by simp) hne
  · exact absurd (by simp) hne
  · exact absurd (by simp) hne
  · exact .inr ⟨hvalid, hwrite, haddr, word_of_commandStep_tq_ne hcmd hne⟩

end Sys2Proof.Machine

/-! PROOF. The state: the host's write of a register (O6, R41), equal register banks (O14, R47), and the reset values (O12, R46). -/

namespace Sys2Proof.Machine

/-! ### What a host write stores -/

/-- A masked word that fits the mask's low `n` bits survives being stored in `n` bits. -/
theorem setWidth_setWidth_and {n : Nat} {keep : Word} (hkeep : keep.toNat < 2 ^ n) (v : Word) :
    ((v &&& keep).setWidth n).setWidth 32 = v &&& keep := by
  have hlt : (v &&& keep).toNat < 2 ^ n := by
    rw [BitVec.toNat_and]
    exact Nat.and_le_right.trans_lt hkeep
  apply BitVec.eq_of_toNat_eq
  rw [BitVec.toNat_setWidth, BitVec.toNat_setWidth, Nat.mod_eq_of_lt hlt, Nat.mod_eq_of_lt (v &&& keep).isLt]

/-- FR_CTL keeps exactly the bits of its mask (R30). -/
theorem FrCtl.toWord_ofWord_and (v : Word) : (FrCtl.ofWord (v &&& 0x0000F1FF#32)).toWord = v &&& 0x0000F1FF#32 := by
  rw [FrCtl.toWord_eq_append, FrCtl.ofWord]
  apply BitVec.eq_of_getLsbD_eq
  intro i hi
  simp only [BitVec.getLsbD_append, BitVec.getLsbD_extractLsb', BitVec.getLsbD_and]
  interval_cases i <;> simp

/-- An RW register reads what was stored in it, its kept bits (R41). -/
theorem get_store_self (r : Regs) {x : Reg} (hrw : x.access = .rw) (v : Word) :
    (r.store x (v &&& x.keep)).get x = v &&& x.keep := by
  cases x with
  | cmd | status | tqRate | tqPresc | tqLen | tqCode | frRx => cases hrw
  | clkHz | bitrate | mbCs | mbId | mbD0 | mbD1 => rfl
  | frCtl => exact FrCtl.toWord_ofWord_and v
  | pay k =>
    simp only [Regs.get, Regs.store, Reg.keep, Fin.getElem_fin, Vector.getElem_set_self]
    exact setWidth_setWidth_and (by decide) v
  | frId | jPrio | jPgn | jSa | jDa => exact setWidth_setWidth_and (by decide) v

/-- A host write leaves every other register alone (R41). -/
theorem get_store_of_ne (r : Regs) {x y : Reg} (hne : y ≠ x) (m : Word) : (r.store x m).get y = r.get y := by
  cases x with
  | pay k =>
    cases y with
    | pay l =>
      have hkl : k.val ≠ l.val := fun h => hne (congrArg Reg.pay (Fin.ext h.symm))
      simp only [Regs.get, Regs.store, Fin.getElem_fin, Vector.getElem_set_ne _ _ hkl]
    | _ => rfl
  | _ => cases y <;> simp_all [Regs.get, Regs.store]

/-- The spec's table of kept bits (R20, column "bits kept") is the model's register table. -/
theorem keptOnWrite_eq (i : BitVec 5) :
    Spec.keptOnWrite i.toNat = (Reg.ofIndex i).bind fun x => if x.access = .rw then some x.keep.toNat else none := by
  revert i
  refine forall_index fun n hn => ?_
  interval_cases n <;> rfl

/-- A host write at an index leaves what every other index reads (R41). -/
theorem readIndex_writeIndex_of_ne (r : Regs) {i k : BitVec 5} (hne : k ≠ i) (v : Word) :
    readIndex (writeIndex r i v) k = readIndex r k := by
  obtain ⟨x, rfl, -⟩ | ⟨-, hi⟩ := index_cases i
  · obtain ⟨y, rfl, -⟩ | ⟨-, hk⟩ := index_cases k
    · rw [writeIndex_index, readIndex_index, readIndex_index, get_store_of_ne r (ne_of_apply_ne Reg.index hne)]
    · rw [(hk _).1, (hk _).1]
  · rw [(hi r).2]

/-- A host write at an index that keeps the bits of `m` stores those bits of the value (R41). -/
theorem readIndex_writeIndex_of_kept (r : Regs) {i : BitVec 5} {m : Nat} (hm : Spec.keptOnWrite i.toNat = some m) (v : Word) :
    readIndex (writeIndex r i v) i = v &&& BitVec.ofNat 32 m := by
  rw [keptOnWrite_eq] at hm
  obtain ⟨x, hx, hm⟩ := Option.bind_eq_some_iff.mp hm
  obtain ⟨hrw, hm⟩ := Option.ite_none_right_eq_some.mp hm
  obtain rfl := Option.some.inj hm
  rw [readIndex, writeIndex, hx, BitVec.ofNat_toNat, BitVec.setWidth_eq]
  exact get_store_self r hrw v

/-- A host write at an index that keeps nothing, read-only or reserved, is ignored (R41, R40). -/
theorem writeIndex_of_not_kept (r : Regs) {i : BitVec 5} (hnone : Spec.keptOnWrite i.toNat = none) (v : Word) :
    writeIndex r i v = r := by
  obtain ⟨x, rfl, hx⟩ | ⟨-, hreserved⟩ := index_cases i
  · have hro : x.access ≠ .rw := fun hrw => by simp [keptOnWrite_eq, hx, hrw] at hnone
    rw [writeIndex_index, store_of_not_rw r hro]
  · exact (hreserved r).2 v

/-- Settles O6: the step is the write of one index, and the spec's table says whether that index keeps bits. -/
theorem hostWriteIsMasked : Obligations.HostWriteIsMasked := by
  intro s i v rest hi hs
  refine ⟨(s.withScript rest).withRegs (writeIndex s.regs i v), ?_, rfl, rfl,
    fun k hk => readIndex_writeIndex_of_ne s.regs hk v, ?_⟩
  · rw [step_of_cons hs]
    exact busCycle_write rfl rfl rfl hi _
  · cases hm : Spec.keptOnWrite i.toNat with
    | some m => exact readIndex_writeIndex_of_kept s.regs hm v
    | none => exact writeIndex_of_not_kept s.regs hm v

/-! ### What a step depends on: the registers and the host's cycles, never the record of reads -/

/-- The registers a command leaves depend on the registers alone (R47). -/
theorem exec_of_regs (i : Instr) (r : Regs) :
    ∃ q : Regs, ∀ cs vs, exec i { regs := r, script := cs, reads := vs } = .next { regs := q, script := cs, reads := vs } := by
  cases i with
  | clr => exact ⟨Regs.reset, fun _ _ => rfl⟩
  | nop => exact ⟨completeCommand _ r (nopBody r), fun _ _ => rfl⟩
  | timing => exact ⟨completeCommand _ r (timingBody r), fun _ _ => rfl⟩
  | fenc => exact ⟨completeCommand _ r (fencBody r), fun _ _ => rfl⟩
  | fdec => exact ⟨completeCommand _ r (fdecBody r), fun _ _ => rfl⟩
  | jenc => exact ⟨completeCommand _ r (jencBody r), fun _ _ => rfl⟩
  | jdec => exact ⟨completeCommand _ r (jdecBody r), fun _ _ => rfl⟩

/-- The registers a CMD write leaves depend on the word and the registers alone (R47). -/
theorem commandStep_of_regs (w : Word) (r : Regs) :
    ∃ q : Regs, ∀ cs vs,
      commandStep w { regs := r, script := cs, reads := vs } = .next { regs := q, script := cs, reads := vs } := by
  cases h : decode w with
  | ok i => simpa only [commandStep_of_decode h] using exec_of_regs i r
  | error e => exact ⟨errorCompletion _ .invalidParameter r, fun _ _ => commandStep_of_illegal h _⟩

/-- What a bus cycle leaves in the registers and what it adds to the record depend on the cycle and the registers alone (R47). -/
theorem busCycle_of_regs (c : Cycle) (r : Regs) :
    ∃ (q : Regs) (l : List Word), ∀ cs vs,
      busCycle c { regs := r, script := cs, reads := vs } = .next { regs := q, script := cs, reads := vs ++ l } := by
  cases hr : c.rst with
  | true =>
    refine ⟨Regs.reset, if c.valid && !c.write then [readIndex r c.addr] else [], fun cs vs => ?_⟩
    rw [busCycle_reset hr]
    split <;> simp
  | false =>
    cases hv : c.valid with
    | false => exact ⟨r, [], fun cs vs => by rw [busCycle_idle hr hv, List.append_nil]⟩
    | true =>
      cases hw : c.write with
      | false => exact ⟨r, [readIndex r c.addr], fun cs vs => busCycle_read hr hv hw _⟩
      | true =>
        by_cases ha : c.addr = 0#5
        · obtain ⟨q, hq⟩ := commandStep_of_regs c.wdata r
          exact ⟨q, [], fun cs vs => by rw [busCycle_command hr hv hw ha, hq, List.append_nil]⟩
        · exact ⟨writeIndex r c.addr c.wdata, [], fun cs vs => by
            rw [busCycle_write hr hv hw ha, List.append_nil]; rfl⟩

/-- What a step leaves in the registers and adds to the record depends on the registers and the host's cycles alone (R47). -/
theorem step_of_regs (r : Regs) (cs : List Cycle) :
    ∃ (q : Regs) (ds : List Cycle) (l : List Word), ∀ vs,
      step { regs := r, script := cs, reads := vs } = .next { regs := q, script := ds, reads := vs ++ l } := by
  cases cs with
  | nil => exact ⟨r, [], [], fun vs => by rw [step_of_nil rfl, List.append_nil]⟩
  | cons c rest =>
    obtain ⟨q, l, h⟩ := busCycle_of_regs c r
    exact ⟨q, rest, l, fun vs => (step_of_cons rfl).trans (h rest vs)⟩

/-- A run takes its first step and goes on. -/
theorem run_succ_of_step {M : Host.Core} {s t : M.State} (h : M.step s = .next t) (n : Nat) : M.run (n + 1) s = M.run n t := by
  simp only [Host.Core.run, h]

/-- What a run leaves in the registers and adds to the record depends on the registers and the host's cycles alone (R47). -/
theorem run_of_regs (n : Nat) (r : Regs) (cs : List Cycle) :
    ∃ (q : Regs) (ds : List Cycle) (l : List Word), ∀ vs,
      Host.Core.run core n (State.mk r cs vs) = .next (State.mk q ds (vs ++ l)) := by
  induction n generalizing r cs with
  | zero => exact ⟨r, cs, [], fun vs => by rw [List.append_nil]; rfl⟩
  | succ n ih =>
    obtain ⟨r₁, cs₁, l₁, hstep⟩ := step_of_regs r cs
    obtain ⟨q, ds, l, hrun⟩ := ih r₁ cs₁
    refine ⟨q, ds, l₁ ++ l, fun vs => ?_⟩
    rw [run_succ_of_step (M := core) (hstep vs), hrun, List.append_assoc]

/-- Settles O14: a run is determined by the registers and the host's cycles but for the record it appends to. -/
theorem equalRegistersAreIndistinguishable : Obligations.EqualRegistersAreIndistinguishable := by
  rintro n ⟨r, cs, vs⟩ ⟨_, _, ws⟩ t rfl rfl ht
  obtain ⟨q, ds, l, hrun⟩ := run_of_regs n r cs
  obtain rfl := Host.Outcome.next.inj (ht.symm.trans (hrun vs))
  exact ⟨_, l, hrun ws, rfl, rfl, rfl⟩

/-! ### After reset -/

/-- Every register is zero in the reset bank (R46). -/
theorem get_reset (x : Reg) : Regs.reset.get x = 0#32 := by
  cases x with
  | pay k => fin_cases k <;> rfl
  | _ => rfl

/-- Settles O12: an index is a register's, zero after reset, or reserved, which always reads zero. -/
theorem everyRegisterReadsZeroAfterReset : Obligations.EveryRegisterReadsZeroAfterReset := by
  intro i
  obtain ⟨x, rfl, -⟩ | ⟨-, hreserved⟩ := index_cases i
  · exact (readIndex_index _ x).trans (get_reset x)
  · exact (hreserved _).1

end Sys2Proof.Machine

/-! PROOF. The host port: what a read transaction returns (O7, R62), and the cycles that can change a register (O9, R64). -/

namespace Sys2Proof.Machine

/-! ### The bits a register can show -/

/-- A value of `n` bits shows nothing outside the low `n` bits of a word. -/
theorem setWidth_and_setWidth_allOnes {n : Nat} (v : BitVec n) :
    v.setWidth 32 &&& (BitVec.allOnes n).setWidth 32 = v.setWidth 32 := by
  rw [← BitVec.setWidth_and, BitVec.and_allOnes]

/-- Two fields that lie within their masks lie, joined, within the joined masks. -/
theorem append_and_append_eq_self {m n : Nat} {x p : BitVec m} {y q : BitVec n} (hx : x &&& p = x) (hy : y &&& q = y) :
    (x ++ y) &&& (p ++ q) = x ++ y := by
  rw [BitVec.and_append, hx, hy]

/-- STATUS shows only the bits it keeps (R22): its mask is all ones in each field and zero between the fields. -/
theorem Status.toWord_and_keep (x : Status) : x.toWord &&& Reg.status.keep = x.toWord := by
  have hkeep : Reg.status.keep = 0#23 ++ BitVec.allOnes 1 ++ BitVec.allOnes 4 ++ BitVec.allOnes 4 := rfl
  rw [Status.toWord_eq_append, hkeep]
  apply_rules [append_and_append_eq_self, BitVec.and_allOnes, BitVec.and_self]

/-- TQ_PRESC shows only the bits it keeps (R26). -/
theorem TqPresc.toWord_and_keep (x : TqPresc) : x.toWord &&& Reg.tqPresc.keep = x.toWord := by
  have hkeep : Reg.tqPresc.keep = BitVec.allOnes 8 ++ 0#7 ++ BitVec.allOnes 1 ++ 0#7 ++ BitVec.allOnes 9 := rfl
  rw [TqPresc.toWord_eq_append, hkeep]
  apply_rules [append_and_append_eq_self, BitVec.and_allOnes, BitVec.and_self]

/-- FR_CTL shows only the bits it keeps (R30). -/
theorem FrCtl.toWord_and_keep (x : FrCtl) : x.toWord &&& Reg.frCtl.keep = x.toWord := by
  have hkeep : Reg.frCtl.keep = 0#16 ++ BitVec.allOnes 4 ++ 0#3 ++ BitVec.allOnes 1 ++ BitVec.allOnes 8 := rfl
  rw [FrCtl.toWord_eq_append, hkeep]
  apply_rules [append_and_append_eq_self, BitVec.and_allOnes, BitVec.and_self]

/-- FR_RX shows only the bits it keeps (R31). -/
theorem FrRx.toWord_and_keep (x : FrRx) : x.toWord &&& Reg.frRx.keep = x.toWord := by
  have hkeep : Reg.frRx.keep = 0#14 ++ BitVec.allOnes 1 ++ BitVec.allOnes 1 ++ BitVec.allOnes 16 := rfl
  rw [FrRx.toWord_eq_append, hkeep]
  apply_rules [append_and_append_eq_self, BitVec.and_allOnes, BitVec.and_self]

/-- Every register shows only the bits it keeps (R20, R62). -/
theorem get_and_keep (r : Regs) (x : Reg) : r.get x &&& x.keep = r.get x := by
  cases x with
  | cmd => exact BitVec.and_self
  | status => exact r.status.toWord_and_keep
  | tqPresc => exact r.tq.presc.toWord_and_keep
  | frCtl => exact r.fr.ctl.toWord_and_keep
  | frRx => exact r.fr.rx.toWord_and_keep
  | clkHz | bitrate | tqRate | tqLen | tqCode | mbCs | mbId | mbD0 | mbD1 => exact BitVec.and_allOnes
  | frId | pay k | jPrio | jPgn | jSa | jDa => exact setWidth_and_setWidth_allOnes _

/-- The spec's table of bits that can read as one (R20, column "bits kept") is the model's register table. -/
theorem keptOnRead_eq (i : BitVec 5) : Spec.keptOnRead i.toNat = ((Reg.ofIndex i).map fun x => x.keep.toNat).getD 0 := by
  revert i
  refine forall_index fun n hn => ?_
  interval_cases n <;> rfl

/-- A host read has no bit outside those the spec's table keeps at that index (R62). -/
theorem readIndex_and_keptOnRead (r : Regs) (i : BitVec 5) :
    readIndex r i &&& BitVec.ofNat 32 (Spec.keptOnRead i.toNat) = readIndex r i := by
  obtain ⟨x, rfl, hx⟩ | ⟨-, hreserved⟩ := index_cases i
  · rw [readIndex_index, keptOnRead_eq, hx, Option.map_some, Option.getD_some, BitVec.ofNat_toNat, BitVec.setWidth_eq]
    exact get_and_keep r x
  · rw [(hreserved r).1, BitVec.zero_and]

/-- The spec's table keeps no bit at CMD and at the reserved indices (R20, R40). -/
theorem keptOnRead_eq_zero : ∀ i : BitVec 5, (i = 0#5 ∨ i = 11#5 ∨ 28 ≤ i.toNat) → Spec.keptOnRead i.toNat = 0 := by
  refine forall_index fun n hn => ?_
  interval_cases n <;> decide

/-- Settles O7: the step is the read transaction; the value has only bits of the spec's table, which at CMD and at the reserved
indices has none. -/
theorem hostReadReturnsTheRegister : Obligations.HostReadReturnsTheRegister := by
  refine ⟨fun s i v rest hs => ?_, readIndex_and_keptOnRead, fun r i hi => ?_⟩
  · rw [step_of_cons hs]
    exact busCycle_read rfl rfl rfl _
  · rw [← readIndex_and_keptOnRead, keptOnRead_eq_zero i hi]
    exact BitVec.and_zero

/-! ### The cycles that change a register -/

/-- Settles O9: of the kinds of bus cycle, an idle one and a read keep the registers, and the others are a reset or a write. -/
theorem onlyResetAndWritesChangeTheRegisters : Obligations.OnlyResetAndWritesChangeTheRegisters := by
  constructor
  · intro s c rest hs hvalid hrst
    rw [step_of_cons hs]
    exact busCycle_idle hrst hvalid _
  · intro s t h hne
    obtain ⟨-, rfl⟩ | ⟨c, rest, hs, hcycle⟩ := step_cases h
    · exact absurd rfl hne
    refine ⟨c, rest, hs, ?_⟩
    obtain ⟨hrst, -, -⟩ | ⟨-, -, rfl⟩ | ⟨-, -, -, rfl⟩ | ⟨-, hvalid, hwrite, -⟩ | ⟨-, hvalid, hwrite, -⟩ := hcycle
    · exact .inl hrst
    · exact absurd (State.withScript_regs s rest) hne
    · exact absurd (by simp) hne
    · exact .inr ⟨hvalid, hwrite⟩
    · exact .inr ⟨hvalid, hwrite⟩

end Sys2Proof.Machine

/-! PROOF. The command word (O2, O4: R81, R83, R193) and the lines of a host script (O44: R91, R92). -/

namespace Sys2Proof.Machine

/-! ### The command word -/

/-- The words of a command are exactly its encoding (R80, R81). -/
theorem decode_eq_ok_iff {w : Word} {i : Instr} : decode w = .ok i ↔ w = encode i := by
  refine ⟨eq_encode_of_decode, ?_⟩
  rintro rfl
  cases i <;> rfl

/-- The mask of R81 keeps the whole word, and the match value of a command is its encoding. -/
theorem decode_eq_ok_iff_and_mask (w : Word) (i : Instr) : decode w = .ok i ↔ w &&& 0xFFFFFFFF#32 = encode i := by
  have hmask : w &&& 0xFFFFFFFF#32 = w := BitVec.and_allOnes
  rw [hmask, decode_eq_ok_iff]

/-- As a number, a command's encoding is below 7 (R81). -/
theorem encode_toNat_lt (i : Instr) : (encode i).toNat < 7 := by
  cases i <;> decide

/-- A word whose value is 7 or more is no command (R83). -/
theorem decode_eq_error_of_le {w : Word} (h : 7 ≤ w.toNat) : ∃ e, decode w = .error e := by
  cases hd : decode w with
  | error e => exact ⟨e, rfl⟩
  | ok i =>
    have hlt := encode_toNat_lt i
    rw [← decode_eq_ok_iff.mp hd] at hlt
    omega

/-- Settles O2: a word decodes to a command exactly when it is the command's encoding, which is the match value of R81 and below 7. -/
theorem wordIsCommandExactlyWhenItMatches : Obligations.WordIsCommandExactlyWhenItMatches := by
  intro w
  have hmatch := decode_eq_ok_iff_and_mask w
  refine ⟨hmatch .nop, hmatch .timing, hmatch .fenc, hmatch .fdec, hmatch .jenc, hmatch .jdec, hmatch .clr, fun hop => ?_⟩
  exact decode_eq_error_of_le (hop.trans (Nat.mod_le _ _))

/-- The two checks of R83 fail exactly for the words of value 7 and more. -/
theorem illegal_iff_seven_le (w : Word) :
    (w.extractLsb' 4 28 ≠ 0#28 ∨ 7 ≤ (w.extractLsb' 0 4).toNat) ↔ 7 ≤ w.toNat := by
  have hupper : (w.extractLsb' 4 28).toNat = w.toNat / 16 := by
    rw [BitVec.extractLsb'_toNat, Nat.shiftRight_eq_div_pow]
    omega
  have hop : (w.extractLsb' 0 4).toNat = w.toNat % 16 := by
    rw [BitVec.extractLsb'_toNat, Nat.shiftRight_zero]
  rw [ne_eq, ← BitVec.toNat_inj, hupper, hop, BitVec.toNat_ofNat]
  omega

/-- Settles O4: such a word does not decode, and its command step is the error completion with InvalidParameter. -/
theorem illegalWordCompletesWithInvalidParameter : Obligations.IllegalWordCompletesWithInvalidParameter := by
  refine fun w => ⟨illegal_iff_seven_le w, fun s h => ?_⟩
  obtain ⟨e, he⟩ := decode_eq_error_of_le h
  exact commandStep_of_illegal he s

/-! ### The lines of a host script -/

/-- PAYLOAD from PAYk on writes its bytes, in order, one register after the other (R92). -/
theorem payloadLines_eq_mapIdx (k : Nat) (bs : List Word) :
    payloadLines k bs = bs.mapIdx fun n b => hostWrite (BitVec.ofNat 5 (12 + (k + n))) b := by
  induction bs generalizing k with
  | nil => rfl
  | cons b bs ih =>
    have hshift (n : Nat) : k + 1 + n = k + (n + 1) := by omega
    simp only [payloadLines, ih, List.mapIdx_cons, hshift, Nat.add_zero]

/-- A PAYLOAD line of at most 8 bytes writes them from PAY0 on (R92). -/
theorem payload_cycles {bs : List Word} (h : bs.length ≤ 8) :
    (ScriptLine.payload bs).cycles = some (bs.mapIdx fun n b => hostWrite (BitVec.ofNat 5 (12 + n)) b) := by
  have hwf : (ScriptLine.payload bs).wf = true := decide_eq_true h
  rw [ScriptLine.cycles, if_pos hwf]
  simp only [payloadLines_eq_mapIdx, Nat.zero_add]

/-- The value that FRAME writes to FR_CTL, in the arithmetic of 32-bit words (R92). -/
theorem ofNat_frameCtlValue (ide dlc code : Word) :
    BitVec.ofNat 32 (frameCtlValue ide dlc code) = dlc + 256#32 * ide + 4096#32 * code := by
  simp only [frameCtlValue, BitVec.ofNat_add, BitVec.ofNat_mul, BitVec.ofNat_toNat, BitVec.setWidth_eq]

/-- A FRAME line whose FR_CTL value is a 32-bit number writes FR_ID and then that value to FR_CTL (R92). -/
theorem frame_cycles {ide dlc code : Word} (h : frameCtlValue ide dlc code < 2 ^ 32) (id : Word) :
    (ScriptLine.frame id ide dlc code).cycles =
      some [hostWrite 8#5 id, hostWrite 9#5 (dlc + 256#32 * ide + 4096#32 * code)] := by
  have hwf : (ScriptLine.frame id ide dlc code).wf = true := decide_eq_true h
  rw [ScriptLine.cycles, if_pos hwf, ← ofNat_frameCtlValue]
  rfl

/-- Settles O44: a line without a check is its row of the table by definition; PAYLOAD and FRAME pass theirs. -/
theorem scriptLinesExpand : Obligations.ScriptLinesExpand := by
  refine ⟨?wr, ?rd, ?cmd, ?timing, ?payload, ?frame, ?image, ?j1939⟩
  case wr => exact fun _ _ => rfl
  case rd => exact fun _ => ⟨0#32, rfl⟩
  case cmd => exact fun _ => rfl
  case timing => exact fun _ _ => rfl
  case payload => exact fun _ h => payload_cycles h
  case frame => exact fun id _ _ _ h => frame_cycles h id
  case image => exact fun _ _ _ _ => rfl
  case j1939 => exact fun _ _ _ _ => rfl

end Sys2Proof.Machine

/-! PROOF. The Timing Calculator (O29: R110, R111) and the completion of TIMING (O30: R115). -/

namespace Sys2Proof.Machine

/-! ### The range of the prescaler -/

/-- The clocks a bit rate can be made from (R111): 16 quanta per bit, a prescaler of 1 to 256. -/
def TimingInRange (clk bps : Word) : Prop :=
  16 * bps.toNat ≤ clk.toNat ∧ clk.toNat < 4112 * bps.toNat

/-- The TimingConfig that a bit rate in range gives (R111 to R114). -/
def timingConfigOf (clk bps : Word) : TimingConfig :=
  { rate := bps
    presc :=
      { presc := BitVec.ofNat 9 (clk.toNat / (bps.toNat * 16))
        inexact := decide (clk.toNat % (bps.toNat * 16) ≠ 0)
        prescCode := BitVec.ofNat 8 (clk.toNat / (bps.toNat * 16) - 1) }
    len := 0x04040803#32
    code := 0x03030702#32 }

/-- One prescaler step, 16 times the rate, is positive (R111, R204: no division by zero). -/
theorem prescalerStep_pos {bps : Word} (h : bps ≠ 0#32) : 0 < bps.toNat * 16 :=
  Nat.mul_pos (BitVec.toNat_pos_of_ne_zero h) (by decide)

/-- The prescaler is 0 exactly for a clock below one prescaler step, 16 times the rate (R111). -/
theorem prescaler_eq_zero_iff (clk : Word) {bps : Word} (h : bps ≠ 0#32) :
    prescaler clk bps = 0 ↔ clk.toNat < bps.toNat * 16 :=
  Nat.div_eq_zero_iff_lt (prescalerStep_pos h)

/-- The prescaler is above 256 exactly from 257 steps on, 4112 times the rate (R111). -/
theorem prescMax_lt_prescaler_iff (clk : Word) {bps : Word} (h : bps ≠ 0#32) :
    256 < prescaler clk bps ↔ 4112 * bps.toNat ≤ clk.toNat := by
  have hstep : 257 ≤ prescaler clk bps ↔ 257 * (bps.toNat * 16) ≤ clk.toNat :=
    Nat.le_div_iff_mul_le (prescalerStep_pos h)
  omega

/-- The limits of R5 refuse the prescaler 0 and those above 256 (R110). -/
theorem prescaler_outside_limits_iff (clk bps : Word) :
    (prescaler clk bps < Config.prescMin ∨ Config.prescMax < prescaler clk bps) ↔
      prescaler clk bps = 0 ∨ 256 < prescaler clk bps :=
  or_congr_left Nat.lt_one_iff

/-- The four failures of R110 are the complement of the range: no zero operand and a legal prescaler. -/
theorem timingInRange_iff (clk bps : Word) :
    TimingInRange clk bps ↔
      clk ≠ 0#32 ∧ bps ≠ 0#32 ∧ prescaler clk bps ≠ 0 ∧ prescaler clk bps ≤ 256 := by
  by_cases hbps : bps = 0#32
  · simp [TimingInRange, hbps]
  · have hzero := prescaler_eq_zero_iff clk hbps
    have hmax := prescMax_lt_prescaler_iff clk hbps
    have hclk : clk = 0#32 → prescaler clk bps = 0 := by
      rintro rfl
      exact Nat.zero_div _
    rw [TimingInRange]
    constructor
    · intro hrange
      have hne : prescaler clk bps ≠ 0 := by omega
      exact ⟨mt hclk hne, hbps, hne, by omega⟩
    · rintro ⟨-, -, hne, hle⟩
      omega

/-! ### The two outcomes of `compute_timing` -/

/-- In range `compute_timing` gives the TimingConfig (R111 to R114). -/
theorem computeTiming_of_inRange {clk bps : Word} (h : TimingInRange clk bps) :
    computeTiming clk bps = .ok (timingConfigOf clk bps) := by
  obtain ⟨hclk, hbps, hne, hle⟩ := (timingInRange_iff clk bps).mp h
  have hlimits : ¬ (prescaler clk bps < Config.prescMin ∨ Config.prescMax < prescaler clk bps) := by
    rw [prescaler_outside_limits_iff, not_or, not_lt]
    exact ⟨hne, hle⟩
  rw [computeTiming, if_neg (not_or.mpr ⟨hclk, hbps⟩), if_neg hlimits, lenWord_eq, codeWord_eq]
  rfl

/-- Out of range it fails, with InvalidParameter only (R110). -/
theorem computeTiming_of_not_inRange {clk bps : Word} (h : ¬ TimingInRange clk bps) :
    computeTiming clk bps = .error .invalidParameter := by
  rw [computeTiming]
  split_ifs with hzero hlimits
  · rfl
  · rfl
  · refine absurd ((timingInRange_iff clk bps).mpr ?_) h
    rw [prescaler_outside_limits_iff, not_or, not_lt] at hlimits
    obtain ⟨hclk, hbps⟩ := not_or.mp hzero
    exact ⟨hclk, hbps, hlimits⟩

theorem computeTiming_eq_error_iff (clk bps : Word) :
    computeTiming clk bps = .error .invalidParameter ↔ ¬ TimingInRange clk bps := by
  refine ⟨fun herr hrange => ?_, computeTiming_of_not_inRange⟩
  rw [computeTiming_of_inRange hrange] at herr
  cases herr

theorem exists_computeTiming_eq_ok_iff (clk bps : Word) :
    (∃ c, computeTiming clk bps = .ok c) ↔ TimingInRange clk bps := by
  refine ⟨fun ⟨c, hok⟩ => ?_, fun hrange => ⟨_, computeTiming_of_inRange hrange⟩⟩
  by_contra hrange
  rw [computeTiming_of_not_inRange hrange] at hok
  cases hok

/-- No 32-bit clock is 16 times a rate of 2^28 or more (R111). -/
theorem not_timingInRange_of_le (clk : Word) {bps : Word} (h : 2 ^ 28 ≤ bps.toNat) : ¬ TimingInRange clk bps := by
  have hclk := clk.isLt
  rw [TimingInRange]
  omega

/-- Settles O29: every clause is about the range of the prescaler, and the two outcomes are decided by that range. -/
theorem computeTimingSucceedsExactlyInRange : Obligations.ComputeTimingSucceedsExactlyInRange := by
  intro clk bps
  refine ⟨?fourCases, fun hbps => ⟨rfl, prescaler_eq_zero_iff clk hbps, prescMax_lt_prescaler_iff clk hbps⟩, ?succeeds,
    ?onlyFailure, fun hlarge => computeTiming_of_not_inRange (not_timingInRange_of_le clk hlarge)⟩
  case fourCases =>
    have hpresc : clk.toNat / (bps.toNat * 16) = prescaler clk bps := rfl
    rw [computeTiming_eq_error_iff, timingInRange_iff, hpresc, ← not_le]
    tauto
  case succeeds =>
    rw [exists_computeTiming_eq_ok_iff]
    refine ⟨fun hrange => ?_, And.right⟩
    obtain ⟨-, hbps, -⟩ := (timingInRange_iff clk bps).mp hrange
    exact ⟨hbps, hrange⟩
  case onlyFailure =>
    rw [← not_exists, exists_computeTiming_eq_ok_iff, computeTiming_eq_error_iff]

/-! ### The command TIMING -/

/-- TIMING in range completes Ok and writes the TimingConfig (R115, R203). -/
theorem exec_timing_of_inRange {s : State} (h : TimingInRange s.regs.clkHz s.regs.bitrate) :
    exec .timing s =
      .next (s.withRegs
        (okCompletion 1#4 s.regs { s.regs with tq := timingConfigOf s.regs.clkHz s.regs.bitrate })) := by
  have hbody : timingBody s.regs = .ok { s.regs with tq := timingConfigOf s.regs.clkHz s.regs.bitrate } := by
    rw [timingBody, computeTiming_of_inRange h]
  rw [exec, execTiming, hbody]
  rfl

/-- TIMING out of range is the error completion with InvalidParameter (R115, R202). -/
theorem exec_timing_of_not_inRange {s : State} (h : ¬ TimingInRange s.regs.clkHz s.regs.bitrate) :
    exec .timing s = .next (s.withRegs (errorCompletion 1#4 .invalidParameter s.regs)) := by
  have hbody : timingBody s.regs = .error .invalidParameter := by
    rw [timingBody, computeTiming_of_not_inRange h]
  rw [exec, execTiming, hbody]
  rfl

/-- Settles O30: TIMING completes by the range of its operands; the two completed states are the stated ones field by field. -/
theorem timingCompletes : Obligations.TimingCompletes := by
  intro s
  constructor
  · intro hmin hmax
    exact exec_timing_of_inRange ⟨hmin, hmax⟩
  · intro hout
    have hrange : ¬ TimingInRange s.regs.clkHz s.regs.bitrate := by
      rw [TimingInRange]
      omega
    exact exec_timing_of_not_inRange hrange

end Sys2Proof.Machine

/-! PROOF. The Frame Codec: what `frame_encode` and `frame_decode` give, field by field (R131 to R138), and the completion of FENC (O32:
R134) and of FDEC (O33: R139). -/

namespace Sys2Proof.Machine

/-! ### Fields in a word -/

/-- A zero-extended value stands under zero bits. -/
theorem setWidth_add_eq_zero_append (m : Nat) {n : Nat} (x : BitVec n) : x.setWidth (m + n) = 0#m ++ x := by
  rw [BitVec.setWidth_eq_append (Nat.le_add_left n m)]
  apply BitVec.eq_of_toNat_eq
  simp

/-- The one-bit field at `i` is bit `i`. -/
theorem ofBool_getLsbD_eq_extractLsb' {n : Nat} (x : BitVec n) (i : Nat) :
    BitVec.ofBool (x.getLsbD i) = x.extractLsb' i 1 := by
  rw [BitVec.getLsbD_eq_extractLsb']
  generalize x.extractLsb' i 1 = b
  revert b
  decide

/-! ### `frame_encode` -/

/-- The Standard identifier in place, bits [28:18] (R132). -/
theorem setWidth_shiftLeft_stdIdShift (x : BitVec 11) : x.setWidth 32 <<< Config.stdIdShift = 0#3 ++ x ++ 0#18 := by
  rw [BitVec.shiftLeft_eq_concat_of_lt (by decide), ← BitVec.setWidth_eq_extractLsb' (by decide),
    BitVec.setWidth_setWidth_of_le x (by decide)]
  exact congrArg (· ++ 0#18) (setWidth_add_eq_zero_append 3 x)

/-- The identifier word (R86, R132), the top field first. -/
theorem idWord_eq_append (ide : Bool) (id : BitVec 29) :
    idWord ide id = if ide then 0#3 ++ id else 0#3 ++ id.extractLsb' 0 11 ++ 0#18 := by
  rw [idWord, setWidth_shiftLeft_stdIdShift]
  exact congrArg (ite _ · _) (setWidth_add_eq_zero_append 3 id)

/-- The four words of a Frame with a legal dlc, their fields in place (R85 to R87, R131 to R133). -/
def encodedImage (id : BitVec 29) (ide : Bool) (dlc : Byte) (pay : Vector Byte 8) (code : BitVec 4) : MailboxImage :=
  { cs := 0#4 ++ code ++ 0#1 ++ BitVec.ofBool ide ++ BitVec.ofBool ide ++ 0#1 ++ dlc.extractLsb' 0 4 ++ 0#16
    id := if ide then 0#3 ++ id else 0#3 ++ id.extractLsb' 0 11 ++ 0#18
    d0 := packedByte dlc pay 0 ++ packedByte dlc pay 1 ++ packedByte dlc pay 2 ++ packedByte dlc pay 3
    d1 := packedByte dlc pay 4 ++ packedByte dlc pay 5 ++ packedByte dlc pay 6 ++ packedByte dlc pay 7 }

/-- For dlc up to 8 `frame_encode` gives the four words (R130 to R133). -/
theorem frameEncode_of_le {dlc : Byte} (h : dlc.toNat ≤ 8) (id : BitVec 29) (ide : Bool) (pay : Vector Byte 8) (code : BitVec 4) :
    frameEncode id ide dlc pay code = .ok (encodedImage id ide dlc pay code) := by
  rw [frameEncode, if_neg (Nat.not_lt.mpr h), csWord_eq_append _ _ _ h, idWord_eq_append, wordOfBytes_eq_append,
    wordOfBytes_eq_append, encodedImage]

/-- For dlc above 8 it fails, with InvalidParameter (R130). -/
theorem frameEncode_of_lt {dlc : Byte} (h : 8 < dlc.toNat) (id : BitVec 29) (ide : Bool) (pay : Vector Byte 8) (code : BitVec 4) :
    frameEncode id ide dlc pay code = .error .invalidParameter :=
  if_pos h

/-! ### The command FENC -/

/-- The MailboxImage that FENC makes of the Frame registers (R134). -/
def Frame.image (f : Frame) : MailboxImage := encodedImage f.id f.ctl.ide f.ctl.dlc f.pay f.ctl.code

/-- FENC with dlc up to 8 completes Ok and writes the MailboxImage (R134, R203). -/
theorem exec_fenc_of_le {s : State} (h : s.regs.fr.ctl.dlc.toNat ≤ 8) :
    exec .fenc s = .next (s.withRegs (okCompletion 2#4 s.regs { s.regs with mb := s.regs.fr.image })) := by
  have hbody : fencBody s.regs = .ok { s.regs with mb := s.regs.fr.image } := by
    rw [fencBody, frameEncode_of_le h, Frame.image]
  rw [exec, execFenc, hbody]
  rfl

/-- FENC with dlc above 8 is the error completion with InvalidParameter (R134, R202). -/
theorem exec_fenc_of_lt {s : State} (h : 8 < s.regs.fr.ctl.dlc.toNat) :
    exec .fenc s = .next (s.withRegs (errorCompletion 2#4 .invalidParameter s.regs)) := by
  have hbody : fencBody s.regs = .error .invalidParameter := by
    rw [fencBody, frameEncode_of_lt h]
  rw [exec, execFenc, hbody]
  rfl

/-- Settles O32: the given bytes are those that encode packs, and FENC completes by the length check; the two completed states are the
stated ones field by field. -/
theorem fencCompletes : Obligations.FencCompletes := by
  intro s b hb
  obtain rfl : b = packedByte s.regs.fr.ctl.dlc s.regs.fr.pay := funext hb
  exact ⟨exec_fenc_of_le, exec_fenc_of_lt⟩

/-! ### `frame_decode` -/

/-- FR_ID of a decoded Frame (R136), the top field first. -/
theorem idOfWord_setWidth_eq_append (ide : Bool) (idw : Word) :
    (idOfWord ide idw).setWidth 32 = if ide then 0#3 ++ idw.extractLsb' 0 29 else 0#21 ++ idw.extractLsb' 18 11 := by
  cases ide with
  | true => exact setWidth_add_eq_zero_append 3 _
  | false =>
    calc (idOfWord false idw).setWidth 32 = (idw.extractLsb' 18 11).setWidth (21 + 11) :=
          BitVec.setWidth_setWidth (u := 11) (v := 29) (by decide)
      _ = 0#21 ++ idw.extractLsb' 18 11 := setWidth_add_eq_zero_append 21 _

/-- FR_CTL of a decoded Frame (R30, R85, R135, R137), the top field first. -/
theorem frameDecode_ctl_toWord_eq_append (m : MailboxImage) :
    (frameDecode m).ctl.toWord =
      0#16 ++ m.cs.extractLsb' 24 4 ++ 0#3 ++ m.cs.extractLsb' 21 1 ++ 0#4 ++ m.cs.extractLsb' 16 4 := by
  have hide : BitVec.ofBool (frameDecode m).ctl.ide = m.cs.extractLsb' 21 1 := ofBool_getLsbD_eq_extractLsb' m.cs 21
  have hdlc : (frameDecode m).ctl.dlc = 0#4 ++ m.cs.extractLsb' 16 4 := setWidth_add_eq_zero_append 4 (csDlc m.cs)
  rw [FrCtl.toWord_eq_append, hide, hdlc, BitVec.append_assoc']
  rfl

/-- FR_RX of a decoded Frame (R31, R85, R138), the top field first. -/
theorem frameDecode_rx_toWord_eq_append (m : MailboxImage) :
    (frameDecode m).rx.toWord = 0#14 ++ m.cs.extractLsb' 22 1 ++ m.cs.extractLsb' 20 1 ++ m.cs.extractLsb' 0 16 := by
  have hsrr : BitVec.ofBool (frameDecode m).rx.srr = m.cs.extractLsb' 22 1 := ofBool_getLsbD_eq_extractLsb' m.cs 22
  have hrtr : BitVec.ofBool (frameDecode m).rx.rtr = m.cs.extractLsb' 20 1 := ofBool_getLsbD_eq_extractLsb' m.cs 20
  rw [FrRx.toWord_eq_append, hsrr, hrtr]
  rfl

/-! ### The command FDEC -/

/-- FDEC completes Ok for every state and writes the decoded Frame (R139, R203). -/
theorem exec_fdec (s : State) :
    exec .fdec s = .next (s.withRegs (okCompletion 3#4 s.regs { s.regs with fr := frameDecode s.regs.mb })) := rfl

/-- A payload register reads as its byte under zero bits (R32, R62). -/
theorem readIndex_pay (r : Regs) (k : Fin 8) : readIndex r (Reg.pay k).index = 0#24 ++ r.fr.pay[k] :=
  (readIndex_index r (.pay k)).trans (setWidth_add_eq_zero_append 24 _)

/-- Settles O33: the completed state is given by `exec_fdec`, and each register it writes reads as the decoded field. -/
theorem fdecCompletes : Obligations.FdecCompletes := by
  intro s
  refine ⟨_, exec_fdec s, rfl, rfl, rfl, ?frId, ?frCtl, ?frRx, readIndex_pay _ 0, readIndex_pay _ 1, readIndex_pay _ 2,
    readIndex_pay _ 3, readIndex_pay _ 4, readIndex_pay _ 5, readIndex_pay _ 6, readIndex_pay _ 7, rfl, rfl, rfl, rfl, rfl⟩
  case frId => exact (readIndex_index _ .frId).trans (idOfWord_setWidth_eq_append _ s.regs.mb.id)
  case frCtl => exact (readIndex_index _ .frCtl).trans (frameDecode_ctl_toWord_eq_append s.regs.mb)
  case frRx => exact (readIndex_index _ .frRx).trans (frameDecode_rx_toWord_eq_append s.regs.mb)

end Sys2Proof.Machine

/-! PROOF. The J1939 unit: what `j1939_encode` and `j1939_decode` give, field by field (R160 to R167), the identifier as a number (O38:
R163), and the completion of JENC (O37: R164) and of JDEC (O39: R168). -/

namespace Sys2Proof.Machine

/-- The PDU selection is the comparison of the PDU-format byte with 240 (R162, R167). -/
theorem ite_isPdu1 {α : Type} (pf : Byte) (a b : α) : (if isPdu1 pf then a else b) = if pf.toNat < 240 then a else b := by
  simp only [isPdu1, decide_eq_true_eq]

/-! ### `j1939_encode` -/

/-- The PDU-specific byte: the destination below 240, else the group extension (R162). -/
theorem pduSpecific_eq_ite (pgn : BitVec 18) (da : Byte) :
    pduSpecific pgn da = if (pgnPf pgn).toNat < 240 then da else pgnGe pgn :=
  ite_isPdu1 (pgnPf pgn) da (pgnGe pgn)

/-- The identifier of a J1939Frame with a legal priority, its fields in place (R88, R161 to R163). -/
def encodedId (prio : Byte) (pgn : BitVec 18) (sa da : Byte) : BitVec 29 :=
  prio.extractLsb' 0 3 ++ pgn.extractLsb' 17 1 ++ pgn.extractLsb' 16 1 ++ pgnPf pgn ++ pduSpecific pgn da ++ sa

/-- The identifier that the spec's formula assembles is the one with the fields in place (R161, R163). -/
theorem idOfFields_eq_encodedId (prio : Byte) (pgn : BitVec 18) (sa da : Byte) :
    idOfFields prio (pgnR pgn) (pgnDp pgn) (pgnPf pgn) (pduSpecific pgn da) sa = encodedId prio pgn sa da := by
  rw [idOfFields_eq_append, pgnR, pgnDp, ofBool_getLsbD_eq_extractLsb', ofBool_getLsbD_eq_extractLsb', encodedId]

/-- For a priority up to 7 and a dlc up to 8 `j1939_encode` gives the identifier (R160 to R163). -/
theorem j1939Encode_of_legal {prio dlc : Byte} (hprio : prio.toNat ≤ 7) (hdlc : dlc.toNat ≤ 8) (pgn : BitVec 18) (sa da : Byte) :
    j1939Encode prio pgn sa da dlc = .ok (encodedId prio pgn sa da) := by
  rw [j1939Encode, if_neg (not_or.mpr ⟨hprio.not_gt, hdlc.not_gt⟩), idOfFields_eq_encodedId]

/-- For any other priority or dlc it fails, with InvalidParameter (R160). -/
theorem j1939Encode_of_illegal {prio dlc : Byte} (h : 7 < prio.toNat ∨ 8 < dlc.toNat) (pgn : BitVec 18) (sa da : Byte) :
    j1939Encode prio pgn sa da dlc = .error .invalidParameter :=
  if_pos h

/-- A successful `j1939_encode` had a legal priority and gave the identifier (R160, R163). -/
theorem eq_encodedId_of_j1939Encode_eq_ok {prio sa da dlc : Byte} {pgn : BitVec 18} {id : BitVec 29}
    (h : j1939Encode prio pgn sa da dlc = .ok id) : prio.toNat ≤ 7 ∧ id = encodedId prio pgn sa da := by
  by_cases hlegal : prio.toNat ≤ 7 ∧ dlc.toNat ≤ 8
  · obtain ⟨hprio, hdlc⟩ := hlegal
    rw [j1939Encode_of_legal hprio hdlc] at h
    exact ⟨hprio, (Except.ok.inj h).symm⟩
  · rw [j1939Encode_of_illegal (by omega)] at h
    cases h

/-! ### The identifier as a number -/

/-- A concatenation as a number: the upper field times the size of the lower one. -/
theorem toNat_append_eq_mul_add {m n : Nat} (x : BitVec m) (y : BitVec n) :
    (x ++ y).toNat = x.toNat * 2 ^ n + y.toNat := by
  rw [BitVec.toNat_append, ← Nat.shiftLeft_add_eq_or_of_lt y.isLt, Nat.shiftLeft_eq]

/-- The identifier is the sum of its fields in place (R163). -/
theorem encodedId_toNat {prio : Byte} (hprio : prio.toNat ≤ 7) (pgn : BitVec 18) (sa da : Byte) :
    (encodedId prio pgn sa da).toNat =
      prio.toNat * 2 ^ 26 + (pgn.extractLsb' 17 1).toNat * 2 ^ 25 + (pgn.extractLsb' 16 1).toNat * 2 ^ 24 +
        (pgnPf pgn).toNat * 2 ^ 16 + (pduSpecific pgn da).toNat * 2 ^ 8 + sa.toNat := by
  have hlow : (prio.extractLsb' 0 3).toNat = prio.toNat := by
    rw [BitVec.extractLsb'_toNat, Nat.shiftRight_zero]
    exact Nat.mod_eq_of_lt (by omega)
  simp only [encodedId, toNat_append_eq_mul_add, hlow]
  ring

/-- A PGN is the sum of its fields in place (R89, R161). -/
theorem pgn_toNat (pgn : BitVec 18) :
    pgn.toNat =
      (pgn.extractLsb' 17 1).toNat * 2 ^ 17 + (pgn.extractLsb' 16 1).toNat * 2 ^ 16 + (pgnPf pgn).toNat * 2 ^ 8 +
        (pgnGe pgn).toNat := by
  have hlt := pgn.isLt
  simp only [pgnPf, pgnGe, BitVec.extractLsb'_toNat, Nat.shiftRight_eq_div_pow]
  omega

/-- Settles O38: the identifier is the sum of its fields, the PDU-specific byte chosen by the PDU format; in PDU2 the fields between
priority and source are those of the PGN. -/
theorem identifierAssemblyOnEncode : Obligations.IdentifierAssemblyOnEncode := by
  rintro prio pgn sa da dlc id _ rfl hok
  obtain ⟨hprio, rfl⟩ := eq_encodedId_of_j1939Encode_eq_ok hok
  have hsum := encodedId_toNat hprio pgn sa da
  rw [pduSpecific_eq_ite, apply_ite BitVec.toNat] at hsum
  refine ⟨hsum, fun hpdu2 => ?_⟩
  have hnot : ¬ (pgnPf pgn).toNat < 240 := Nat.not_lt.mpr hpdu2
  rw [hsum, if_neg hnot, pgn_toNat pgn]
  ring

/-! ### The command JENC -/

/-- The identifier that JENC makes of the J registers (R164). -/
def J1939Fields.identifier (f : J1939Fields) : BitVec 29 := encodedId f.prio f.pgn f.sa f.da

/-- The Frame registers with an Extended identifier put in, as JENC writes them (R164). -/
def Frame.withExtendedId (f : Frame) (id : BitVec 29) : Frame := { f with id := id, ctl := { f.ctl with ide := true } }

/-- JENC with a legal priority and dlc completes Ok and writes FR_ID and FR_CTL.ide (R164, R203). -/
theorem exec_jenc_of_legal {s : State} (hprio : s.regs.j.prio.toNat ≤ 7) (hdlc : s.regs.fr.ctl.dlc.toNat ≤ 8) :
    exec .jenc s =
      .next (s.withRegs
        (okCompletion 4#4 s.regs { s.regs with fr := s.regs.fr.withExtendedId s.regs.j.identifier })) := by
  have hbody : jencBody s.regs = .ok { s.regs with fr := s.regs.fr.withExtendedId s.regs.j.identifier } := by
    rw [jencBody, j1939Encode_of_legal hprio hdlc]
    rfl
  rw [exec, execJenc, hbody]
  rfl

/-- JENC with any other priority or dlc is the error completion with InvalidParameter (R164, R202). -/
theorem exec_jenc_of_illegal {s : State} (h : 7 < s.regs.j.prio.toNat ∨ 8 < s.regs.fr.ctl.dlc.toNat) :
    exec .jenc s = .next (s.withRegs (errorCompletion 4#4 .invalidParameter s.regs)) := by
  have hbody : jencBody s.regs = .error .invalidParameter := by
    rw [jencBody, j1939Encode_of_illegal h]
  rw [exec, execJenc, hbody]
  rfl

/-- Settles O37: the given bytes are the PDU-format and the PDU-specific byte, and JENC completes by the checks of R160; the two completed
states are the stated ones field by field. -/
theorem jencCompletes : Obligations.JencCompletes := by
  rintro s _ ps rfl hps
  obtain rfl : ps = pduSpecific s.regs.j.pgn s.regs.j.da := hps.trans (pduSpecific_eq_ite _ _).symm
  exact ⟨exec_jenc_of_legal, exec_jenc_of_illegal⟩

/-! ### `j1939_decode` -/

/-- The priority of a decoded identifier stands under zero bits (R166). -/
theorem idPrio_eq_append (id : BitVec 29) : idPrio id = 0#5 ++ id.extractLsb' 26 3 :=
  setWidth_add_eq_zero_append 5 (id.extractLsb' 26 3)

/-- The PGN of a decoded identifier (R89, R167), the top field first: the two page bits stand side by side in the identifier. -/
theorem decodedPgn_eq_append (id : BitVec 29) :
    decodedPgn id = id.extractLsb' 24 2 ++ idPf id ++ if (idPf id).toNat < 240 then 0#8 else idPs id := by
  have hpage : BitVec.ofBool (idR id) ++ BitVec.ofBool (idDp id) = id.extractLsb' 24 2 := by
    rw [idR, idDp, ofBool_getLsbD_eq_extractLsb', ofBool_getLsbD_eq_extractLsb']
    exact BitVec.extractLsb'_append_extractLsb'_eq_extractLsb' rfl
  rw [decodedPgn, pgnOf_eq_append, hpage, ite_isPdu1]

/-- The J1939 fields of an Extended identifier, by the PDU branch (R166, R167). -/
def decodedFields (id : BitVec 29) : J1939Fields where
  prio := 0#5 ++ id.extractLsb' 26 3
  pgn := id.extractLsb' 24 2 ++ idPf id ++ if (idPf id).toNat < 240 then 0#8 else idPs id
  sa := idSa id
  da := if (idPf id).toNat < 240 then idPs id else 255#8

/-- Of an Extended Frame `j1939_decode` gives the fields (R165 to R167). -/
theorem j1939Decode_extended (id : BitVec 29) : j1939Decode id true = .ok (decodedFields id) := by
  rw [j1939Decode, if_pos rfl, idPrio_eq_append, decodedPgn_eq_append, decodedDa, ite_isPdu1, decodedFields]

/-- Of a Standard Frame it fails, with Error (R165). -/
theorem j1939Decode_standard (id : BitVec 29) : j1939Decode id false = .error .error := rfl

/-! ### The command JDEC -/

/-- JDEC of an Extended Frame completes Ok and writes the J registers (R168, R203). -/
theorem exec_jdec_of_extended {s : State} (h : s.regs.fr.ctl.ide = true) :
    exec .jdec s = .next (s.withRegs (okCompletion 5#4 s.regs { s.regs with j := decodedFields s.regs.fr.id })) := by
  have hbody : jdecBody s.regs = .ok { s.regs with j := decodedFields s.regs.fr.id } := by
    rw [jdecBody, h, j1939Decode_extended]
  rw [exec, execJdec, hbody]
  rfl

/-- JDEC of a Standard Frame is the error completion with Error (R168, R202). -/
theorem exec_jdec_of_standard {s : State} (h : s.regs.fr.ctl.ide = false) :
    exec .jdec s = .next (s.withRegs (errorCompletion 5#4 .error s.regs)) := by
  have hbody : jdecBody s.regs = .error .error := by
    rw [jdecBody, h, j1939Decode_standard]
  rw [exec, execJdec, hbody]
  rfl

/-- Settles O39: JDEC completes by the Frame's width; the two completed states are the stated ones field by field. -/
theorem jdecCompletes : Obligations.JdecCompletes := by
  rintro s _ _ rfl rfl
  exact ⟨exec_jdec_of_extended, exec_jdec_of_standard⟩

end Sys2Proof.Machine

/-! PROOF. The housekeeping commands NOP (O42: R191) and CLR (O43: R192, R231), and the command step against the spec's pseudocode over
exact unsigned integers (O16: R190): each body and its pseudocode form a commuting square, and so do their completions. -/

namespace Sys2Proof.Machine

/-! ### NOP and CLR -/

/-- Settles O42: the Ok completion of a body without writes is the stated state, field by field. -/
theorem nopCompletes : Obligations.NopCompletes := fun _ => rfl

/-- Settles O43: CLR answers the block reset, which reads 0 everywhere, and every reset cycle leaves the same registers. -/
theorem clrCompletesLikeReset : Obligations.ClrCompletesLikeReset := by
  refine fun s => ⟨s.resetBlock, rfl, rfl, rfl, rfl, everyRegisterReadsZeroAfterReset, fun c u hrst hu => ?_⟩
  rw [busCycle_reset hrst] at hu
  obtain rfl := Host.Outcome.next.inj hu
  rfl

/-! ### The host's view of the register bank -/

/-- Below 28 only index 11 is no register's (R20). -/
theorem eq_of_ofIndex_eq_none : ∀ i < 28, Reg.ofIndex (BitVec.ofNat 5 i) = none → i = 11 := by decide

/-- A number is a register's index, or reserved, or past the last index (R20, R40). -/
theorem index_or_reserved (i : Nat) : (∃ x : Reg, i = x.index.toNat) ∨ i = 11 ∨ 28 ≤ i := by
  by_cases hlt : i < 28
  · obtain ⟨x, hx, -⟩ | ⟨hnone, -⟩ := index_cases (BitVec.ofNat 5 i)
    · refine .inl ⟨x, ?_⟩
      rw [← hx, BitVec.toNat_ofNat, Nat.mod_eq_of_lt (by omega)]
    · exact .inr (.inl (eq_of_ofIndex_eq_none i hlt hnone))
  · exact .inr (.inr (Nat.le_of_not_lt hlt))

/-- The host's view at a register's index is that register (R62). -/
theorem view_index (r : Regs) (x : Reg) : Spec.view r x.index.toNat = (r.get x).toNat := by
  rw [Spec.view, if_pos x.index.isLt, BitVec.ofNat_toNat, BitVec.setWidth_eq, readIndex_index]

/-- The host's view at a reserved index, and past the last index, is 0 (R40). -/
theorem view_of_reserved (r : Regs) {i : Nat} (hi : i = 11 ∨ 28 ≤ i) : Spec.view r i = 0 := by
  rw [Spec.view]
  split_ifs with hlt
  · obtain rfl | hge := hi
    · rfl
    · interval_cases i <;> rfl
  · rfl

/-- A bank is the host's view of the registers when it holds each register at its index and 0 elsewhere. -/
theorem view_eq_of_get {q : Regs} {x : Spec.Bank} (hreg : ∀ y : Reg, (q.get y).toNat = x y.index.toNat)
    (hreserved : ∀ i, i = 11 ∨ 28 ≤ i → x i = 0) : Spec.view q = x := by
  funext i
  obtain ⟨y, rfl⟩ | hi := index_or_reserved i
  · rw [view_index, hreg]
  · rw [view_of_reserved q hi, hreserved i hi]

theorem put_of_ne {k i : Nat} (h : k ≠ i) (x : Spec.Bank) (v : Nat) : Spec.put x i v k = x k := if_neg h

/-- The bank that reset leaves is 0 everywhere (R46). -/
theorem view_reset : Spec.view Regs.reset = fun _ => 0 :=
  view_eq_of_get (fun y => by rw [get_reset]; rfl) fun _ _ => rfl

/-! ### Fields as numbers -/

/-- `v[lo+n-1:lo]` of the spec is the bit field (R8). -/
theorem field_toNat {w : Nat} (v : BitVec w) (lo n : Nat) : Spec.field v.toNat lo n = (v.extractLsb' lo n).toNat := by
  rw [Spec.field, BitVec.extractLsb'_toNat, Nat.shiftRight_eq_div_pow]

/-- The one-bit field at `i` is bit `i` as a number. -/
theorem field_one_toNat {w : Nat} (v : BitVec w) (i : Nat) : Spec.field v.toNat i 1 = (v.getLsbD i).toNat := by
  rw [field_toNat, ← ofBool_getLsbD_eq_extractLsb', BitVec.toNat_ofBool]

/-- Zero bits on top leave the number as it is. -/
theorem toNat_zero_append (m : Nat) {n : Nat} (x : BitVec n) : (0#m ++ x).toNat = x.toNat := by
  rw [toNat_append_eq_mul_add, BitVec.toNat_ofNat, Nat.zero_mod, Nat.zero_mul, Nat.zero_add]

/-- PAYk stands at index 12 + k (R20). -/
theorem pay_index_toNat : ∀ k : Fin 8, (Reg.pay k).index.toNat = 12 + k.val := by decide

section
variable (r : Regs)

/-! A register of one field, at its index, is that field's number (R29, R32, R36 to R39). -/

theorem view_frId : Spec.view r 8 = r.fr.id.toNat := BitVec.toNat_setWidth_of_le (by decide)
theorem view_jPrio : Spec.view r 24 = r.j.prio.toNat := BitVec.toNat_setWidth_of_le (by decide)
theorem view_jPgn : Spec.view r 25 = r.j.pgn.toNat := BitVec.toNat_setWidth_of_le (by decide)
theorem view_jSa : Spec.view r 26 = r.j.sa.toNat := BitVec.toNat_setWidth_of_le (by decide)
theorem view_jDa : Spec.view r 27 = r.j.da.toNat := BitVec.toNat_setWidth_of_le (by decide)

theorem view_pay (k : Fin 8) : Spec.view r (12 + k.val) = r.fr.pay[k].toNat := by
  rw [← pay_index_toNat, view_index]
  exact BitVec.toNat_setWidth_of_le (by decide)

/-- FR_CTL.dlc as the pseudocode reads it (R30). -/
theorem field_frCtl_dlc : Spec.field (Spec.view r 9) 0 8 = r.fr.ctl.dlc.toNat :=
  (field_toNat r.fr.ctl.toWord 0 8).trans
    (congrArg (BitVec.toNat ∘ FrCtl.dlc) (FrCtl.ofWord_toWord r.fr.ctl))

/-- FR_CTL.ide as the pseudocode reads it (R30). -/
theorem field_frCtl_ide : Spec.field (Spec.view r 9) 8 1 = r.fr.ctl.ide.toNat :=
  (field_one_toNat r.fr.ctl.toWord 8).trans
    (congrArg (Bool.toNat ∘ FrCtl.ide) (FrCtl.ofWord_toWord r.fr.ctl))

/-- FR_CTL.code as the pseudocode reads it (R30). -/
theorem field_frCtl_code : Spec.field (Spec.view r 9) 12 4 = r.fr.ctl.code.toNat :=
  (field_toNat r.fr.ctl.toWord 12 4).trans
    (congrArg (BitVec.toNat ∘ FrCtl.code) (FrCtl.ofWord_toWord r.fr.ctl))

end

/-- STATUS as a number (R22). -/
theorem Status.toNat_toWord (x : Status) : x.toWord.toNat = x.code.toNat + x.lastop.toNat * 2 ^ 4 + x.serr.toNat * 2 ^ 8 := by
  rw [Status.toWord_eq_append]
  simp only [toNat_append_eq_mul_add, BitVec.toNat_ofBool, BitVec.toNat_ofNat]
  omega

/-- STATUS.serr as the pseudocode reads it (R22). -/
theorem field_status_serr (r : Regs) : Spec.field (Spec.view r 1) 8 1 = r.status.serr.toNat := by
  have hword : Spec.view r 1 = r.status.toWord.toNat := rfl
  have hcode := r.status.code.isLt
  have hlastop := r.status.lastop.isLt
  have hserr := r.status.serr.toNat_lt
  rw [hword, Status.toNat_toWord, Spec.field]
  omega

/-- TQ_PRESC as a number (R26). -/
theorem TqPresc.toNat_toWord (x : TqPresc) :
    x.toWord.toNat = x.presc.toNat + x.inexact.toNat * 2 ^ 16 + x.prescCode.toNat * 2 ^ 24 := by
  rw [TqPresc.toWord_eq_append]
  simp only [toNat_append_eq_mul_add, BitVec.toNat_ofBool, BitVec.toNat_ofNat]
  omega

/-- FR_CTL as a number (R30). -/
theorem FrCtl.toNat_toWord (x : FrCtl) : x.toWord.toNat = x.dlc.toNat + x.ide.toNat * 2 ^ 8 + x.code.toNat * 2 ^ 12 := by
  rw [FrCtl.toWord_eq_append]
  simp only [toNat_append_eq_mul_add, BitVec.toNat_ofBool, BitVec.toNat_ofNat]
  omega

/-- FR_RX as a number (R31). -/
theorem FrRx.toNat_toWord (x : FrRx) : x.toWord.toNat = x.ts.toNat + x.rtr.toNat * 2 ^ 16 + x.srr.toNat * 2 ^ 17 := by
  rw [FrRx.toWord_eq_append]
  simp only [toNat_append_eq_mul_add, BitVec.toNat_ofBool, BitVec.toNat_ofNat]
  omega

/-! ### Completion -/

/-- A body's result as the pseudocode has it: the bank the host would see, or the number of the code raised (R200). -/
def resultView : Except ResultCode Regs → Except Nat Spec.Bank
  | .ok q => .ok (Spec.view q)
  | .error c => .error c.number.toNat

/-- Writing STATUS writes index 1 of the host's view. -/
theorem view_with_status (q : Regs) (x : Status) :
    Spec.view { q with status := x } = Spec.put (Spec.view q) 1 x.toWord.toNat := by
  refine view_eq_of_get (fun y => ?_) fun i hi => ?_
  · cases y with
    | pay k => fin_cases k <;> rfl
    | _ => rfl
  · simp (disch := omega) only [put_of_ne, view_of_reserved]

/-- The end of the command step is the pseudocode's (R190, R202, R203). -/
theorem view_completeCommand (op : BitVec 4) (r : Regs) (res : Except ResultCode Regs) :
    Spec.view (completeCommand op r res) = Spec.complete op.toNat (Spec.view r) (resultView res) := by
  cases res with
  | ok q =>
    rw [completeCommand_ok, okCompletion, view_with_status, Status.toNat_toWord]
    simp only [resultView, Spec.complete, field_status_serr, serrAfterOk, ResultCode.number, BitVec.toNat_ofNat, Nat.zero_mod, Nat.zero_add]
  | error c =>
    rw [completeCommand_error, errorCompletion, view_with_status, Status.toNat_toWord]
    simp only [resultView, Spec.complete, serrAfterError, Bool.toNat_true, Nat.one_mul]

/-! ### TIMING -/

/-- The pseudocode's checks of the operands refuse exactly what is out of range (R110, R115). -/
theorem timing_refuses_iff (r : Regs) :
    ((Spec.view r 2 = 0 ∨ Spec.view r 3 = 0) ∨
      (Spec.view r 2 / (Spec.view r 3 * 16) = 0 ∨ Spec.view r 2 / (Spec.view r 3 * 16) > 256)) ↔
      ¬ TimingInRange r.clkHz r.bitrate := by
  have hclk : Spec.view r 2 = 0 ↔ r.clkHz = 0#32 := BitVec.toNat_inj (y := 0#32)
  have hbps : Spec.view r 3 = 0 ↔ r.bitrate = 0#32 := BitVec.toNat_inj (y := 0#32)
  have hpresc : Spec.view r 2 / (Spec.view r 3 * 16) = prescaler r.clkHz r.bitrate := rfl
  rw [timingInRange_iff, hclk, hbps, hpresc, gt_iff_lt, ← not_le]
  tauto

/-- TQ_PRESC of a bit rate in range, as a number (R111, R113, R114). -/
theorem timingConfigOf_presc_toNat {clk bps : Word} (h : TimingInRange clk bps) :
    (timingConfigOf clk bps).presc.toWord.toNat =
      clk.toNat / (bps.toNat * 16) + (if clk.toNat % (bps.toNat * 16) = 0 then 0 else 1) * 2 ^ 16 +
        (clk.toNat / (bps.toNat * 16) - 1) * 2 ^ 24 := by
  obtain ⟨-, -, -, hle⟩ := (timingInRange_iff clk bps).mp h
  have hmax : clk.toNat / (bps.toNat * 16) ≤ 256 := hle
  have hflag : (decide (clk.toNat % (bps.toNat * 16) ≠ 0)).toNat = if clk.toNat % (bps.toNat * 16) = 0 then 0 else 1 := by
    split_ifs with hexact <;> simp [hexact]
  rw [TqPresc.toNat_toWord, timingConfigOf, hflag, BitVec.toNat_ofNat, BitVec.toNat_ofNat,
    Nat.mod_eq_of_lt (a := clk.toNat / (bps.toNat * 16)) (by omega),
    Nat.mod_eq_of_lt (a := clk.toNat / (bps.toNat * 16) - 1) (by omega)]

/-- The body of TIMING is its pseudocode (R115). -/
theorem resultView_timingBody (r : Regs) : resultView (timingBody r) = Spec.timing (Spec.view r) := by
  have hrefuses := timing_refuses_iff r
  rw [timingBody, Spec.timing, ← ite_or]
  by_cases h : TimingInRange r.clkHz r.bitrate
  · rw [computeTiming_of_inRange h, if_neg (mt hrefuses.mp (not_not.mpr h))]
    refine congrArg Except.ok (view_eq_of_get (fun y => ?_) fun i hi => ?_)
    · cases y with
      | tqPresc => exact timingConfigOf_presc_toNat h
      | pay k => fin_cases k <;> rfl
      | _ => rfl
    · simp (disch := omega) only [put_of_ne, view_of_reserved]
  · rw [computeTiming_of_not_inRange h, if_pos (hrefuses.mpr h)]
    rfl

/-! ### FENC and FDEC -/

/-- A payload byte as encode packs it is the pseudocode's `b[k]` (R133, R134). -/
theorem packed_view (r : Regs) (k : Fin 8) :
    Spec.packed (Spec.view r) k.val = (packedByte r.fr.ctl.dlc r.fr.pay k).toNat := by
  rw [Spec.packed, field_frCtl_dlc, view_pay, packedByte, apply_ite BitVec.toNat]
  rfl

/-- Four packed bytes are the pseudocode's payload word (R87, R134). -/
theorem packedWord_view {x : Spec.Bank} {k : Nat} {b0 b1 b2 b3 : Byte} (h0 : Spec.packed x k = b0.toNat)
    (h1 : Spec.packed x (k + 1) = b1.toNat) (h2 : Spec.packed x (k + 2) = b2.toNat) (h3 : Spec.packed x (k + 3) = b3.toNat) :
    (b0 ++ b1 ++ b2 ++ b3).toNat = Spec.packedWord x k := by
  simp only [Spec.packedWord, h0, h1, h2, h3, toNat_append_eq_mul_add]
  ring

/-- The CS word of a Frame with a legal dlc, as a number (R131). -/
theorem image_cs_toNat {r : Regs} (h : r.fr.ctl.dlc.toNat ≤ 8) :
    r.fr.image.cs.toNat =
      Spec.field (Spec.view r 9) 12 4 * 2 ^ 24 + Spec.field (Spec.view r 9) 8 1 * 2 ^ 22 + Spec.field (Spec.view r 9) 8 1 * 2 ^ 21 +
        Spec.field (Spec.view r 9) 0 8 * 2 ^ 16 := by
  have hdlc : (r.fr.ctl.dlc.extractLsb' 0 4).toNat = r.fr.ctl.dlc.toNat := by
    rw [BitVec.extractLsb'_toNat, Nat.shiftRight_zero]
    exact Nat.mod_eq_of_lt (by omega)
  simp only [Frame.image, encodedImage, toNat_append_eq_mul_add, BitVec.toNat_ofBool, BitVec.toNat_ofNat, hdlc, field_frCtl_dlc,
    field_frCtl_ide, field_frCtl_code]
  omega

/-- The identifier word of a Frame, as a number (R132). -/
theorem image_id_toNat (r : Regs) :
    r.fr.image.id.toNat =
      if Spec.field (Spec.view r 9) 8 1 = 1 then Spec.view r 8 else Spec.field (Spec.view r 8) 0 11 * 2 ^ 18 := by
  rw [field_frCtl_ide, view_frId, field_toNat, Frame.image, encodedImage]
  cases r.fr.ctl.ide with
  | true => exact toNat_zero_append 3 r.fr.id
  | false => exact (toNat_append_eq_mul_add _ 0#18).trans (congrArg (· * 2 ^ 18) (toNat_zero_append 3 _))

/-- The body of FENC is its pseudocode (R134). -/
theorem resultView_fencBody (r : Regs) : resultView (fencBody r) = Spec.fenc (Spec.view r) := by
  rw [fencBody, Spec.fenc]
  by_cases h : r.fr.ctl.dlc.toNat ≤ 8
  · rw [frameEncode_of_le h, if_neg (by rw [field_frCtl_dlc]; omega)]
    refine congrArg Except.ok (view_eq_of_get (fun y => ?_) fun i hi => ?_)
    · cases y with
      | mbCs => exact image_cs_toNat h
      | mbId => exact image_id_toNat r
      | mbD0 => exact packedWord_view (packed_view r 0) (packed_view r 1) (packed_view r 2) (packed_view r 3)
      | mbD1 => exact packedWord_view (packed_view r 4) (packed_view r 5) (packed_view r 6) (packed_view r 7)
      | pay k => fin_cases k <;> rfl
      | _ => rfl
    · simp (disch := omega) only [put_of_ne, view_of_reserved]
  · rw [frameEncode_of_lt (by omega), if_pos (by rw [field_frCtl_dlc]; omega)]
    rfl

/-- FR_ID of a decoded Frame, as a number (R136). -/
theorem frameDecode_id_toNat (m : MailboxImage) :
    (frameDecode m).id.toNat =
      if Spec.field m.cs.toNat 21 1 = 1 then Spec.field m.id.toNat 0 29 else Spec.field m.id.toNat 18 11 := by
  rw [field_one_toNat, field_toNat, field_toNat, frameDecode, idOfWord, csIde]
  cases m.cs.getLsbD 21 with
  | true => rfl
  | false => exact BitVec.toNat_setWidth_of_le (show 11 ≤ 29 by decide)

/-- FR_CTL of a decoded Frame, as a number (R135, R137). -/
theorem frameDecode_ctl_toNat (m : MailboxImage) :
    (frameDecode m).ctl.toWord.toNat =
      Spec.field m.cs.toNat 16 4 + Spec.field m.cs.toNat 21 1 * 2 ^ 8 + Spec.field m.cs.toNat 24 4 * 2 ^ 12 := by
  have hdlc : (frameDecode m).ctl.dlc.toNat = (csDlc m.cs).toNat := BitVec.toNat_setWidth_of_le (by decide)
  rw [FrCtl.toNat_toWord, hdlc, field_one_toNat, field_toNat, field_toNat]
  rfl

/-- FR_RX of a decoded Frame, as a number (R138). -/
theorem frameDecode_rx_toNat (m : MailboxImage) :
    (frameDecode m).rx.toWord.toNat =
      Spec.field m.cs.toNat 0 16 + Spec.field m.cs.toNat 20 1 * 2 ^ 16 + Spec.field m.cs.toNat 22 1 * 2 ^ 17 := by
  rw [FrRx.toNat_toWord, field_one_toNat, field_one_toNat, field_toNat]
  rfl

/-- The bank that the pseudocode of FDEC leaves is the host's view of the decoded Frame (R139). -/
theorem view_frameDecode (r : Regs) : Spec.view { r with fr := frameDecode r.mb } = Spec.fdec (Spec.view r) := by
  refine view_eq_of_get (fun y => ?_) fun i hi => ?_
  · cases y with
    | frId => exact (BitVec.toNat_setWidth_of_le (by decide)).trans (frameDecode_id_toNat r.mb)
    | frCtl => exact frameDecode_ctl_toNat r.mb
    | frRx => exact frameDecode_rx_toNat r.mb
    | pay k => fin_cases k <;> exact (BitVec.toNat_setWidth_of_le (by decide)).trans (field_toNat _ _ _).symm
    | _ => rfl
  · simp (disch := omega) only [Spec.fdec, if_neg, view_of_reserved]

/-! ### JENC and JDEC -/

/-- The identifier that JENC makes, as a number (R162 to R164). -/
theorem identifier_toNat {r : Regs} (h : r.j.prio.toNat ≤ 7) :
    r.j.identifier.toNat =
      Spec.view r 24 * 2 ^ 26 + Spec.field (Spec.view r 25) 17 1 * 2 ^ 25 + Spec.field (Spec.view r 25) 16 1 * 2 ^ 24 +
        Spec.field (Spec.view r 25) 8 8 * 2 ^ 16 +
        (if Spec.field (Spec.view r 25) 8 8 < 240 then Spec.view r 27 else Spec.field (Spec.view r 25) 0 8) * 2 ^ 8 +
        Spec.view r 26 := by
  rw [J1939Fields.identifier, encodedId_toNat h, pduSpecific_eq_ite, apply_ite BitVec.toNat, view_jPrio, view_jPgn,
    view_jSa, view_jDa, field_toNat, field_toNat, field_toNat, field_toNat, pgnPf, pgnGe]

/-- FR_CTL with ide set, as a number (R30, R164). -/
theorem extendedCtl_toNat (r : Regs) (id : BitVec 29) :
    (r.fr.withExtendedId id).ctl.toWord.toNat =
      Spec.field (Spec.view r 9) 0 8 + 2 ^ 8 + Spec.field (Spec.view r 9) 12 4 * 2 ^ 12 := by
  rw [FrCtl.toNat_toWord, field_frCtl_dlc, field_frCtl_code, Frame.withExtendedId, Bool.toNat_true, Nat.one_mul]

/-- The body of JENC is its pseudocode (R164). -/
theorem resultView_jencBody (r : Regs) : resultView (jencBody r) = Spec.jenc (Spec.view r) := by
  have hrefuses : (Spec.view r 24 > 7 ∨ Spec.field (Spec.view r 9) 0 8 > 8) ↔ 7 < r.j.prio.toNat ∨ 8 < r.fr.ctl.dlc.toNat := by
    rw [view_jPrio, field_frCtl_dlc]
  rw [jencBody, Spec.jenc]
  by_cases h : 7 < r.j.prio.toNat ∨ 8 < r.fr.ctl.dlc.toNat
  · rw [j1939Encode_of_illegal h, if_pos (hrefuses.mpr h)]
    rfl
  · obtain ⟨hprio, hdlc⟩ := not_or.mp h
    rw [Nat.not_lt] at hprio hdlc
    rw [j1939Encode_of_legal hprio hdlc, if_neg (mt hrefuses.mp h)]
    refine congrArg Except.ok (view_eq_of_get (fun y => ?_) fun i hi => ?_)
    · cases y with
      | frId => exact (BitVec.toNat_setWidth_of_le (by decide)).trans (identifier_toNat hprio)
      | frCtl => exact extendedCtl_toNat r r.j.identifier
      | pay k => fin_cases k <;> rfl
      | _ => rfl
    · simp (disch := omega) only [put_of_ne, view_of_reserved]

/-- The PGN of a decoded identifier, as a number (R167). -/
theorem decodedFields_pgn_toNat (id : BitVec 29) :
    (decodedFields id).pgn.toNat =
      Spec.field id.toNat 24 2 * 2 ^ 16 + Spec.field id.toNat 16 8 * 2 ^ 8 +
        (if Spec.field id.toNat 16 8 < 240 then 0 else Spec.field id.toNat 8 8) := by
  rw [field_toNat, field_toNat, field_toNat, decodedFields, idPf, idPs, toNat_append_eq_mul_add, toNat_append_eq_mul_add,
    apply_ite BitVec.toNat, BitVec.toNat_ofNat, Nat.zero_mod]
  ring

/-- The destination of a decoded identifier, as a number (R167). -/
theorem decodedFields_da_toNat (id : BitVec 29) :
    (decodedFields id).da.toNat = if Spec.field id.toNat 16 8 < 240 then Spec.field id.toNat 8 8 else 0xFF := by
  rw [field_toNat, field_toNat, decodedFields, idPf, idPs, apply_ite BitVec.toNat]
  rfl

/-- The body of JDEC is its pseudocode (R168). -/
theorem resultView_jdecBody (r : Regs) : resultView (jdecBody r) = Spec.jdec (Spec.view r) := by
  rw [jdecBody, Spec.jdec, field_frCtl_ide, view_frId]
  cases r.fr.ctl.ide with
  | false => rfl
  | true =>
    rw [j1939Decode_extended]
    refine congrArg Except.ok (view_eq_of_get (fun y => ?_) fun i hi => ?_)
    · cases y with
      | jPrio => exact (BitVec.toNat_setWidth_of_le (by decide)).trans ((toNat_zero_append 5 _).trans (field_toNat _ _ _).symm)
      | jPgn => exact (BitVec.toNat_setWidth_of_le (by decide)).trans (decodedFields_pgn_toNat r.fr.id)
      | jSa => exact (BitVec.toNat_setWidth_of_le (by decide)).trans (field_toNat _ _ _).symm
      | jDa => exact (BitVec.toNat_setWidth_of_le (by decide)).trans (decodedFields_da_toNat r.fr.id)
      | pay k => fin_cases k <;> rfl
      | _ => rfl
    · simp (disch := omega) only [put_of_ne, view_of_reserved]

/-! ### The command step -/

/-- An illegal word takes the first branch of the pseudocode (R83, R193). -/
theorem specCommandStep_of_illegal {w : Word} {e : IllegalWord} (h : decode w = .error e) (x : Spec.Bank) :
    Spec.commandStep w.toNat x = Spec.complete (opcodeField w).toNat x (.error 1) := by
  obtain ⟨-, -, hlegal⟩ | ⟨i, hi, -⟩ := decode_cases w
  · have hillegal : w.extractLsb' 4 28 ≠ 0#28 ∨ 7 ≤ (w.extractLsb' 0 4).toNat := by
      simpa [legalWord, upperBitsZero, opcodeAssigned, imp_iff_not_or] using hlegal
    have hvalue := (illegal_iff_seven_le w).mp hillegal
    have hop : (opcodeField w).toNat = w.toNat % 2 ^ 4 := BitVec.extractLsb'_toNat 0 4 w
    rw [hop, Spec.commandStep, if_pos (by omega)]
  · cases h.symm.trans hi

/-- Every command answers registers that read as the pseudocode, run on its encoding, computes them: the square of its body, completed;
CLR has no completion (R190, R192). -/
theorem exec_refines (i : Instr) (s : State) :
    ∃ r, exec i s = .next (s.withRegs r) ∧ Spec.view r = Spec.commandStep (encode i).toNat (Spec.view s.regs) := by
  have hview := view_completeCommand i.opcode s.regs
  cases i with
  | nop => exact ⟨_, rfl, hview (nopBody s.regs)⟩
  | timing => exact ⟨_, rfl, (hview _).trans (by rw [resultView_timingBody]; rfl)⟩
  | fenc => exact ⟨_, rfl, (hview _).trans (by rw [resultView_fencBody]; rfl)⟩
  | fdec => exact ⟨_, rfl, (hview _).trans (by rw [fdecBody, resultView, view_frameDecode]; rfl)⟩
  | jenc => exact ⟨_, rfl, (hview _).trans (by rw [resultView_jencBody]; rfl)⟩
  | jdec => exact ⟨_, rfl, (hview _).trans (by rw [resultView_jdecBody]; rfl)⟩
  | clr => exact ⟨_, rfl, view_reset⟩

/-- Settles O16, by the decoder: an illegal word is the error completion on both sides, and a legal word is a command's encoding. -/
theorem commandStepRefinesThePseudocode : Obligations.CommandStepRefinesThePseudocode := by
  intro w s
  cases hd : decode w with
  | error e =>
    rw [commandStep_of_illegal hd, specCommandStep_of_illegal hd]
    exact ⟨_, rfl, rfl, rfl, view_completeCommand (opcodeField w) s.regs (.error .invalidParameter)⟩
  | ok i =>
    obtain ⟨r, hexec, hview⟩ := exec_refines i s
    rw [commandStep_of_decode hd, eq_encode_of_decode hd]
    exact ⟨_, hexec, rfl, rfl, hview⟩

end Sys2Proof.Machine

/-! PROOF. The results of a command (60_exceptions.md): every cause of a non-zero code (O17, R201), and what a command that fails leaves
(O18, R202). Both go through the body that a word runs and the error it raises. -/

namespace Sys2Proof.Machine

/-! ### The body of a word -/

/-- `body(op)` of R190. CLR's result stands for its one effect, the reset (R192); it has no completion. -/
def bodyOf : Instr → Regs → Except ResultCode Regs
  | .nop => nopBody
  | .timing => timingBody
  | .fenc => fencBody
  | .fdec => fdecBody
  | .jenc => jencBody
  | .jdec => jdecBody
  | .clr => fun _ => .ok Regs.reset

/-- What the command step of a word has to complete: the command's body, or the InvalidParameter of an illegal word (R190, R193). -/
def commandBody (w : Word) (r : Regs) : Except ResultCode Regs :=
  match decode w with
  | .ok i => bodyOf i r
  | .error _ => .error .invalidParameter

/-- Every command but CLR is the completion of its body (R190). -/
theorem exec_eq_finishCommand {i : Instr} (h : i ≠ .clr) (s : State) : exec i s = finishCommand i.opcode s (bodyOf i s.regs) := by
  cases i with
  | clr => exact absurd rfl h
  | _ => rfl

/-- The low nibble of a command's encoding is its opcode (R80). -/
theorem opcodeField_encode (i : Instr) : opcodeField (encode i) = i.opcode := by
  cases i <;> rfl

/-- The command step of every word but CLR's is the completion of what the word runs, under its low nibble (R190, R193). -/
theorem commandStep_eq_finishCommand {w : Word} (h : w ≠ encode .clr) (s : State) :
    commandStep w s = finishCommand (opcodeField w) s (commandBody w s.regs) := by
  cases hd : decode w with
  | error e => rw [commandStep_of_illegal hd, commandBody, hd, illegalCommand]
  | ok i =>
    obtain rfl := eq_encode_of_decode hd
    have hclr : i ≠ .clr := mt (congrArg encode) h
    rw [commandStep_of_decode hd, exec_eq_finishCommand hclr, commandBody, hd, opcodeField_encode]

/-- A command step ends in one of three ways: a completion with Ok, the error completion of the error raised, or the reset of CLR, which
raises none (R190, R202, R203, R192). -/
theorem commandStep_cases {w : Word} {s t : State} (h : commandStep w s = .next t) :
    (∃ q, commandBody w s.regs = .ok q ∧ t = s.withRegs (okCompletion (opcodeField w) s.regs q)) ∨
    (∃ c, commandBody w s.regs = .error c ∧ t = s.withRegs (errorCompletion (opcodeField w) c s.regs)) ∨
    (w = encode .clr ∧ commandBody w s.regs = .ok Regs.reset ∧ t = s.resetBlock) := by
  by_cases hclr : w = encode .clr
  · obtain rfl := hclr
    exact .inr (.inr ⟨rfl, rfl, (Host.Outcome.next.inj h).symm⟩)
  · rw [commandStep_eq_finishCommand hclr, finishCommand_eq_next_iff] at h
    obtain ⟨q, hq, hc⟩ | ⟨c, hc, hcomplete⟩ := completeCommand_cases (opcodeField w) s.regs (commandBody w s.regs)
    · exact .inl ⟨q, hq, hc ▸ h⟩
    · exact .inr (.inl ⟨c, hc, hcomplete ▸ h⟩)

/-! ### The error a word raises -/

section
variable (r : Regs) (c : ResultCode)

theorem timingBody_eq_error_iff : timingBody r = .error c ↔ c = .invalidParameter ∧ ¬ TimingInRange r.clkHz r.bitrate := by
  rw [← computeTiming_eq_error_iff]
  obtain ⟨cfg, hok, hb⟩ | ⟨herr, hb⟩ := timingBody_cases r
  · simp [hok, hb]
  · simp [herr, hb, eq_comm]

theorem fencBody_eq_error_iff : fencBody r = .error c ↔ c = .invalidParameter ∧ 8 < r.fr.ctl.dlc.toNat := by
  obtain ⟨hdlc, m, -, hb⟩ | ⟨hdlc, hb⟩ := fencBody_cases r
  · simp [hb, hdlc.not_gt]
  · simp [hb, hdlc, eq_comm]

theorem jencBody_eq_error_iff :
    jencBody r = .error c ↔ c = .invalidParameter ∧ (7 < r.j.prio.toNat ∨ 8 < r.fr.ctl.dlc.toNat) := by
  obtain ⟨⟨hprio, hdlc⟩, id, -, hb⟩ | ⟨hbad, hb⟩ := jencBody_cases r
  · simp [hb, hprio.not_gt, hdlc.not_gt]
  · simp [hb, hbad, eq_comm]

theorem jdecBody_eq_error_iff : jdecBody r = .error c ↔ c = .error ∧ r.fr.ctl.ide = false := by
  obtain ⟨hide, f, -, hb⟩ | ⟨hide, hb⟩ := jdecBody_cases r
  · simp [hb, hide]
  · simp [hb, hide, eq_comm]

/-- The rejected words are those of value 7 and more (R83). -/
theorem seven_le_of_decode_eq_error {w : Word} {e : IllegalWord} (h : decode w = .error e) : 7 ≤ w.toNat := by
  obtain ⟨-, -, hlegal⟩ | ⟨i, hi, -⟩ := decode_cases w
  · rw [← illegal_iff_seven_le]
    simpa [legalWord, upperBitsZero, opcodeAssigned, imp_iff_not_or] using hlegal
  · cases h.symm.trans hi

/-- A word raises an error as an illegal word, or as the word of a command whose body raises it (R190, R193). -/
theorem commandBody_eq_error_iff_exists (w : Word) :
    commandBody w r = .error c ↔ (7 ≤ w.toNat ∧ c = .invalidParameter) ∨ ∃ i, w = encode i ∧ bodyOf i r = .error c := by
  simp only [← decode_eq_ok_iff]
  cases hd : decode w with
  | error e => simp [commandBody, hd, seven_le_of_decode_eq_error hd, eq_comm]
  | ok i =>
    have hlegal : w.toNat < 7 := by
      rw [eq_encode_of_decode hd]
      exact encode_toNat_lt i
    simp [commandBody, hd, hlegal.not_ge]

/-- A property of some command is its property of one of the seven (R81). -/
theorem exists_instr {p : Instr → Prop} :
    (∃ i, p i) ↔ p .nop ∨ p .timing ∨ p .fenc ∨ p .fdec ∨ p .jenc ∨ p .jdec ∨ p .clr := by
  constructor
  · rintro ⟨i, h⟩
    cases i <;> simp only [h, true_or, or_true]
  · rintro (h | h | h | h | h | h | h) <;> exact ⟨_, h⟩

/-- The table of causes (R201). -/
theorem commandBody_eq_error_iff (w : Word) :
    commandBody w r = .error c ↔
      (7 ≤ w.toNat ∧ c = .invalidParameter) ∨
      (w = encode .timing ∧ c = .invalidParameter ∧ ¬ TimingInRange r.clkHz r.bitrate) ∨
      (w = encode .fenc ∧ c = .invalidParameter ∧ 8 < r.fr.ctl.dlc.toNat) ∨
      (w = encode .jenc ∧ c = .invalidParameter ∧ (7 < r.j.prio.toNat ∨ 8 < r.fr.ctl.dlc.toNat)) ∨
      (w = encode .jdec ∧ c = .error ∧ r.fr.ctl.ide = false) := by
  rw [commandBody_eq_error_iff_exists, exists_instr]
  simp only [bodyOf, nopBody, fdecBody, timingBody_eq_error_iff, fencBody_eq_error_iff, jencBody_eq_error_iff,
    jdecBody_eq_error_iff, reduceCtorEq, and_false, false_or, or_false]

end

/-- The four TIMING rows of R201 are what is out of range. -/
theorem not_timingInRange_iff (clk bps : Word) :
    ¬ TimingInRange clk bps ↔
      clk = 0#32 ∨ bps = 0#32 ∨ clk.toNat < 16 * bps.toNat ∨ 4112 * bps.toNat ≤ clk.toNat := by
  rw [TimingInRange, ← BitVec.toNat_inj, ← BitVec.toNat_inj]
  simp only [BitVec.toNat_ofNat]
  omega

/-- The error raised is InvalidParameter or Error, never another code (R201). -/
theorem eq_of_commandBody_eq_error {w : Word} {r : Regs} {c : ResultCode} (h : commandBody w r = .error c) :
    c = .invalidParameter ∨ c = .error := by
  rw [commandBody_eq_error_iff] at h
  tauto

/-! ### The code a command leaves -/

theorem ResultCode.number_inj {c d : ResultCode} : c.number = d.number ↔ c = d := by
  cases c <;> cases d <;> decide

/-- STATUS.code is the number of a code other than Ok exactly when the word raises that code (R202, R203). -/
theorem status_code_eq_number_iff {w : Word} {s t : State} (h : commandStep w s = .next t) {c : ResultCode} (hc : c ≠ .ok) :
    t.regs.status.code = c.number ↔ commandBody w s.regs = .error c := by
  have hzero : 0#4 ≠ c.number := fun h0 => hc (ResultCode.number_inj (c := .ok).mp h0).symm
  obtain ⟨q, hq, rfl⟩ | ⟨d, hd, rfl⟩ | ⟨-, hreset, rfl⟩ := commandStep_cases h
  · simp [hq, hzero]
  · simp [hd, ResultCode.number_inj]
  · simp [hreset, Regs.reset, hzero]

/-- Settles O18: a completion with Ok and the reset of CLR leave the code 0, and the error completion is the stated state. -/
theorem errorCompletionWritesStatusOnly : Obligations.ErrorCompletionWritesStatusOnly := by
  intro w s t h hcode
  obtain ⟨q, -, rfl⟩ | ⟨c, -, rfl⟩ | ⟨-, -, rfl⟩ := commandStep_cases h
  · exact absurd rfl hcode
  · rfl
  · exact absurd rfl hcode

/-- Settles O17: the codes 1 and 2 tell the error that the word raised, which the table of causes gives; no other error is raised. -/
theorem everyCauseOfAnError : Obligations.EveryCauseOfAnError := by
  intro w s
  obtain ⟨t, h⟩ : ∃ t, commandStep w s = .next t := (commandStep_eq_withRegs w s).imp' s.withRegs fun _ => id
  refine ⟨t, h, ?invalidParameter, ?error, ?code, ?lastop⟩
  case invalidParameter =>
    refine (status_code_eq_number_iff h (c := .invalidParameter) nofun).trans ?_
    rw [commandBody_eq_error_iff, illegal_iff_seven_le, ← not_timingInRange_iff]
    simp only [reduceCtorEq, true_and, false_and, and_false, and_true, or_false]
    rfl
  case error =>
    refine (status_code_eq_number_iff h (c := .error) nofun).trans ?_
    rw [commandBody_eq_error_iff]
    simp only [reduceCtorEq, true_and, false_and, and_false, false_or]
    rfl
  case code =>
    obtain ⟨q, -, rfl⟩ | ⟨c, hc, rfl⟩ | ⟨-, -, rfl⟩ := commandStep_cases h
    · exact .inl rfl
    · obtain rfl | rfl := eq_of_commandBody_eq_error hc
      · exact .inr (.inl rfl)
      · exact .inr (.inr rfl)
    · exact .inl rfl
  case lastop =>
    intro hclr
    obtain ⟨q, -, rfl⟩ | ⟨c, -, rfl⟩ | ⟨rfl, -, -⟩ := commandStep_cases h
    · rfl
    · rfl
    · exact absurd rfl hclr

end Sys2Proof.Machine

/-! PROOF. Reset (O10: R230). -/

namespace Sys2Proof.Machine

/-- Settles O10: a reset cycle leaves the registers of reset, which read 0 everywhere, and the host's list keeps its tail. -/
theorem resetClearsEveryRegister : Obligations.ResetClearsEveryRegister := by
  intro s c rest hs hrst
  rw [step_of_cons hs, busCycle_reset hrst]
  exact ⟨_, rfl, rfl, rfl, everyRegisterReadsZeroAfterReset⟩

end Sys2Proof.Machine

/-! PROOF. The command word, decoded and encoded (O1, O3: R80, R81, R83). -/

namespace Sys2Proof.Machine

/-- Settles O1: each word is written out from the table, and the decoder computes its row. -/
theorem wordsOfTheTableDecode : Obligations.WordsOfTheTableDecode :=
  ⟨rfl, rfl, rfl, rfl, rfl, rfl, rfl, rfl, rfl, rfl⟩

/-- No command has an operand that could be ill formed (R82). -/
theorem Instr.wf_eq_true (i : Instr) : i.wf = true := by
  cases i <;> rfl

/-- The words that pass both checks are those that decode (R83). -/
theorem legalWord_iff_exists_decode (w : Word) : legalWord w = true ↔ ∃ i, decode w = .ok i := by
  obtain ⟨e, he, hlegal⟩ | ⟨i, hi, hlegal, -⟩ := decode_cases w
  · simp [he, hlegal]
  · simp [hi, hlegal]

/-- Settles O3: a word decodes to a command exactly as its encoding, every command is well formed, and legal means decodable. -/
theorem decodeAndEncodeAgree : Obligations.DecodeAndEncodeAgree := by
  refine ⟨fun i w _ => decode_eq_ok_iff, fun w => ?_⟩
  simp only [legalWord_iff_exists_decode, decode_eq_ok_iff, Instr.wf_eq_true, true_and]

end Sys2Proof.Machine

/-! PROOF. The Frame Codec's round trips (O36: R140), the bits that decode ignores (O34: U3) and the place of the identifier (O35: R143):
each field of an encoded image, and each field that decode takes from an image, has a lemma of its own. -/

namespace Sys2Proof.Machine

/-! ### Fields of a concatenation and of a masked word -/

/-- A legal data-length code is its low four bits (R131). -/
theorem toNat_extractLsb'_dlc {dlc : Byte} (h : dlc.toNat ≤ 8) : (dlc.extractLsb' 0 4).toNat = dlc.toNat := by
  rw [BitVec.extractLsb'_toNat, Nat.shiftRight_zero]
  exact Nat.mod_eq_of_lt (by omega)

/-- Byte `k` of a payload word is the `k`th of its bytes, the top one first (R87). -/
theorem payloadByte_append (b : Fin 4 → Byte) (k : Fin 4) : payloadByte (b 0 ++ b 1 ++ b 2 ++ b 3) k = b k := by
  fin_cases k <;>
    · simp (disch := decide) only [payloadByte, BitVec.extractLsb'_append_eq_of_le, BitVec.extractLsb'_append_eq_of_add_le]
      exact BitVec.extractLsb'_eq_self

/-- Words that agree under a mask agree in every field that the mask covers. -/
theorem extractLsb'_eq_of_and_eq {n lo len : Nat} {x y mask : BitVec n} (hmask : mask.extractLsb' lo len = BitVec.allOnes len)
    (h : x &&& mask = y &&& mask) : x.extractLsb' lo len = y.extractLsb' lo len := by
  have hfield := congrArg (BitVec.extractLsb' lo len) h
  rwa [BitVec.extractLsb'_and, BitVec.extractLsb'_and, hmask, BitVec.and_allOnes, BitVec.and_allOnes] at hfield

/-- Words that agree under a mask agree in every bit that the mask covers. -/
theorem getLsbD_eq_of_and_eq {n i : Nat} {x y mask : BitVec n} (hmask : mask.getLsbD i = true)
    (h : x &&& mask = y &&& mask) : x.getLsbD i = y.getLsbD i := by
  have hbit := congrArg (BitVec.getLsbD · i) h
  simpa only [BitVec.getLsbD_and, hmask, Bool.and_true] using hbit

/-! ### The fields of an encoded image -/

section
variable (id : BitVec 29) (ide : Bool) (dlc : Byte) (pay : Vector Byte 8) (code : BitVec 4)

theorem csIde_encodedImage : csIde (encodedImage id ide dlc pay code).cs = ide := by
  simp only [csIde, encodedImage, BitVec.getLsbD_append]
  simp

theorem csSrr_encodedImage : csSrr (encodedImage id ide dlc pay code).cs = ide := by
  simp only [csSrr, encodedImage, BitVec.getLsbD_append]
  simp

theorem csRtr_encodedImage : csRtr (encodedImage id ide dlc pay code).cs = false := by
  simp only [csRtr, encodedImage, BitVec.getLsbD_append]
  simp

theorem csTimestamp_encodedImage : csTimestamp (encodedImage id ide dlc pay code).cs = 0#16 :=
  BitVec.extractLsb'_append_eq_right

theorem csDlc_encodedImage : csDlc (encodedImage id ide dlc pay code).cs = dlc.extractLsb' 0 4 := by
  rw [csDlc, encodedImage, BitVec.extractLsb'_append_eq_of_le (Nat.le_refl 16)]
  exact BitVec.extractLsb'_append_eq_right

theorem csCode_encodedImage : csCode (encodedImage id ide dlc pay code).cs = code := by
  simp (disch := decide) only [csCode, encodedImage, BitVec.extractLsb'_append_eq_of_le, BitVec.extractLsb'_append_eq_of_add_le]
  exact BitVec.extractLsb'_eq_self

/-- The identifier of an encoded image: all of it if Extended, its low 11 bits if Standard (R132, R136). -/
theorem idOfWord_encodedImage :
    idOfWord ide (encodedImage id ide dlc pay code).id = if ide then id else (id.extractLsb' 0 11).setWidth 29 := by
  cases ide with
  | true => exact BitVec.extractLsb'_append_eq_right
  | false =>
    have hfield : (encodedImage id false dlc pay code).id.extractLsb' 18 11 = id.extractLsb' 0 11 :=
      (BitVec.extractLsb'_append_eq_of_le (Nat.le_refl 18)).trans BitVec.extractLsb'_append_eq_right
    exact congrArg (BitVec.setWidth 29) hfield

theorem payloadByte_encodedImage_d0 (k : Fin 4) :
    payloadByte (encodedImage id ide dlc pay code).d0 k = packedByte dlc pay (k.castAdd 4) :=
  payloadByte_append (fun k => packedByte dlc pay (k.castAdd 4)) k

theorem payloadByte_encodedImage_d1 (k : Fin 4) :
    payloadByte (encodedImage id ide dlc pay code).d1 k = packedByte dlc pay (k.natAdd 4) :=
  payloadByte_append (fun k => packedByte dlc pay (k.natAdd 4)) k

end

/-! ### The fields of a decoded Frame -/

/-- The first four payload bytes of a decoded Frame come from the first payload word (R138). -/
theorem frameDecode_pay_castAdd (m : MailboxImage) (k : Fin 4) : (frameDecode m).pay[k.castAdd 4] = payloadByte m.d0 k := by
  fin_cases k <;> rfl

/-- The last four come from the second (R138). -/
theorem frameDecode_pay_natAdd (m : MailboxImage) (k : Fin 4) : (frameDecode m).pay[k.natAdd 4] = payloadByte m.d1 k := by
  fin_cases k <;> rfl

/-- The data-length code of a decoded Frame is the raw field, 0 to 15 (R137). -/
theorem frameDecode_dlc_toNat (m : MailboxImage) : (frameDecode m).ctl.dlc.toNat = (csDlc m.cs).toNat :=
  BitVec.toNat_setWidth_of_le (by decide)

/-! ### Frame to image to Frame -/

section
variable (id : BitVec 29) (ide : Bool) {dlc : Byte} (pay : Vector Byte 8) (code : BitVec 4)

/-- The low 11 bits of an identifier, by the mask 0x7FF. -/
theorem setWidth_extractLsb'_eq_and : (id.extractLsb' 0 11).setWidth 29 = id &&& 0x7FF#29 := by
  apply BitVec.eq_of_toNat_eq
  rw [BitVec.toNat_setWidth_of_le (by decide), BitVec.extractLsb'_toNat, Nat.shiftRight_zero, BitVec.toNat_and]
  exact (Nat.and_two_pow_sub_one_eq_mod id.toNat 11).symm

theorem frameDecode_encodedImage_id :
    (frameDecode (encodedImage id ide dlc pay code)).id = if ide then id else id &&& 0x7FF#29 := by
  rw [frameDecode, csIde_encodedImage, idOfWord_encodedImage, setWidth_extractLsb'_eq_and]

theorem frameDecode_encodedImage_ctl (h : dlc.toNat ≤ 8) :
    (frameDecode (encodedImage id ide dlc pay code)).ctl = { dlc := dlc, ide := ide, code := code } := by
  have hdlc : (dlc.extractLsb' 0 4).setWidth 8 = dlc := by
    apply BitVec.eq_of_toNat_eq
    rw [BitVec.toNat_setWidth_of_le (by decide), toNat_extractLsb'_dlc h]
  rw [frameDecode, csIde_encodedImage, csDlc_encodedImage, csCode_encodedImage, hdlc]

theorem frameDecode_encodedImage_rx :
    (frameDecode (encodedImage id ide dlc pay code)).rx = { ts := 0#16, rtr := false, srr := ide } := by
  rw [frameDecode, csTimestamp_encodedImage, csRtr_encodedImage, csSrr_encodedImage]

theorem frameDecode_encodedImage_pay (k : Fin 8) :
    (frameDecode (encodedImage id ide dlc pay code)).pay[k] = packedByte dlc pay k := by
  refine Fin.addCases (m := 4) (n := 4) (fun k => ?_) (fun k => ?_) k
  · rw [frameDecode_pay_castAdd, payloadByte_encodedImage_d0]
  · rw [frameDecode_pay_natAdd, payloadByte_encodedImage_d1]

end

/-! ### Image to Frame to image -/

/-- A CS word as its fields (R85), the bits that decode ignores among them. -/
theorem cs_eq_append (c : Word) :
    c = c.extractLsb' 28 4 ++ csCode c ++ c.extractLsb' 23 1 ++ c.extractLsb' 22 1 ++ c.extractLsb' 21 1 ++ c.extractLsb' 20 1 ++
      csDlc c ++ csTimestamp c := by
  rw [csCode, csDlc, csTimestamp]
  repeat rw [BitVec.extractLsb'_append_extractLsb'_eq_extractLsb' (by decide)]
  exact BitVec.extractLsb'_eq_self.symm

/-- The fields that an encode of a decoded Frame keeps of a CS word: CODE, IDE and DLC (R140 (b)). -/
theorem cs_and_mask (c : Word) :
    c &&& 0x0F2F0000#32 = 0#4 ++ csCode c ++ 0#1 ++ 0#1 ++ c.extractLsb' 21 1 ++ 0#1 ++ csDlc c ++ 0#16 := by
  have hmask : 0x0F2F0000#32 =
      0#4 ++ BitVec.allOnes 4 ++ 0#1 ++ 0#1 ++ BitVec.allOnes 1 ++ 0#1 ++ BitVec.allOnes 4 ++ 0#16 := by decide
  refine (congrArg₂ (· &&& ·) (cs_eq_append c) hmask).trans ?_
  rw [BitVec.and_append]
  simp only [BitVec.and_append, BitVec.and_allOnes, BitVec.and_zero]

/-- Bit 21 of a CS word moved to bit 22, where encode repeats it (R131, R140 (b)). -/
theorem ide_shiftLeft_eq_append (c : Word) :
    (c >>> 21 &&& 1#32) <<< 22 = 0#4 ++ 0#4 ++ 0#1 ++ c.extractLsb' 21 1 ++ 0#1 ++ 0#1 ++ 0#4 ++ 0#16 := by
  have hbit : c >>> 21 &&& 1#32 = (c.extractLsb' 21 1).setWidth 32 := by
    apply BitVec.eq_of_toNat_eq
    rw [BitVec.toNat_setWidth_of_le (by decide), BitVec.extractLsb'_toNat, BitVec.toNat_and]
    exact Nat.and_one_is_mod _
  rw [hbit]
  generalize c.extractLsb' 21 1 = b
  revert b
  decide

theorem frameDecode_image_cs (m : MailboxImage) :
    (frameDecode m).image.cs = (m.cs &&& 0x0F2F0000#32) ||| ((m.cs >>> 21 &&& 1#32) <<< 22) := by
  have hdlc : (frameDecode m).ctl.dlc.extractLsb' 0 4 = csDlc m.cs :=
    (BitVec.extractLsb'_setWidth_of_le (by decide)).trans BitVec.extractLsb'_eq_self
  have hide : BitVec.ofBool (frameDecode m).ctl.ide = m.cs.extractLsb' 21 1 := ofBool_getLsbD_eq_extractLsb' m.cs 21
  rw [cs_and_mask, ide_shiftLeft_eq_append, BitVec.or_append, Frame.image, encodedImage, hdlc, hide]
  simp only [BitVec.or_append, BitVec.or_zero, BitVec.zero_or]
  rfl

/-- Placing the identifier taken from an identifier word gives that word without the bits that decode ignores (R132, R136). -/
theorem idWord_idOfWord (ide : Bool) (w : Word) :
    idWord ide (idOfWord ide w) = if ide then w &&& 0x1FFFFFFF#32 else w &&& 0x1FFC0000#32 := by
  rw [idWord_eq_append]
  cases ide with
  | true =>
    have hmask : 0x1FFFFFFF#32 = 0#3 ++ BitVec.allOnes 29 := by decide
    have hword : w = w.extractLsb' 29 3 ++ w.extractLsb' 0 29 := by
      rw [BitVec.extractLsb'_append_extractLsb'_eq_extractLsb' (by decide)]
      exact BitVec.extractLsb'_eq_self.symm
    refine ((congrArg₂ (· &&& ·) hword hmask).trans ?_).symm
    rw [BitVec.and_append, BitVec.and_zero, BitVec.and_allOnes]
    rfl
  | false =>
    have hmask : 0x1FFC0000#32 = 0#3 ++ BitVec.allOnes 11 ++ 0#18 := by decide
    have hword : w = w.extractLsb' 29 3 ++ w.extractLsb' 18 11 ++ w.extractLsb' 0 18 := by
      repeat rw [BitVec.extractLsb'_append_extractLsb'_eq_extractLsb' (by decide)]
      exact BitVec.extractLsb'_eq_self.symm
    have hid : (idOfWord false w).extractLsb' 0 11 = w.extractLsb' 18 11 :=
      (BitVec.extractLsb'_setWidth_of_le (by decide)).trans BitVec.extractLsb'_eq_self
    refine ((congrArg₂ (· &&& ·) hword hmask).trans ?_).symm
    rw [BitVec.and_append, BitVec.and_append, BitVec.and_zero, BitVec.and_allOnes, BitVec.and_zero, hid]
    rfl

theorem frameDecode_image_id (m : MailboxImage) :
    (frameDecode m).image.id = if m.cs.getLsbD 21 then m.id &&& 0x1FFFFFFF#32 else m.id &&& 0x1FFC0000#32 :=
  (idWord_eq_append _ _).symm.trans (idWord_idOfWord (csIde m.cs) m.id)

theorem payloadByte_frameDecode_image_d0 (m : MailboxImage) (k : Fin 4) :
    payloadByte (frameDecode m).image.d0 k = if k.val < (csDlc m.cs).toNat then payloadByte m.d0 k else 0#8 := by
  rw [Frame.image, payloadByte_encodedImage_d0, packedByte, frameDecode_dlc_toNat, frameDecode_pay_castAdd, Fin.val_castAdd]

theorem payloadByte_frameDecode_image_d1 (m : MailboxImage) (k : Fin 4) :
    payloadByte (frameDecode m).image.d1 k = if k.val + 4 < (csDlc m.cs).toNat then payloadByte m.d1 k else 0#8 := by
  rw [Frame.image, payloadByte_encodedImage_d1, packedByte, frameDecode_dlc_toNat, frameDecode_pay_natAdd, Fin.val_natAdd,
    Nat.add_comm]

/-- Settles O36: (a) is decode of the encoded image, field by field, and (b) is the image of the decoded Frame, word by word. -/
theorem frameCodecRoundTrips : Obligations.FrameCodecRoundTrips := by
  constructor
  · intro id ide dlc pay code hdlc
    exact ⟨_, frameEncode_of_le hdlc id ide pay code, frameDecode_encodedImage_id id ide pay code,
      frameDecode_encodedImage_ctl id ide pay code hdlc, frameDecode_encodedImage_rx id ide pay code,
      frameDecode_encodedImage_pay id ide pay code⟩
  · rintro m _ rfl
    have hfield : (m.cs.extractLsb' 16 4).toNat = (frameDecode m).ctl.dlc.toNat := (frameDecode_dlc_toNat m).symm
    rw [hfield]
    refine ⟨fun hdlc => ⟨_, frameEncode_of_le hdlc _ _ _ _, frameDecode_image_cs m, frameDecode_image_id m, fun k => ?_⟩,
      fun hdlc => frameEncode_of_lt hdlc _ _ _ _⟩
    rw [frameDecode_dlc_toNat]
    exact ⟨payloadByte_frameDecode_image_d0 m k, payloadByte_frameDecode_image_d1 m k⟩

/-! ### What decode ignores -/

/-- Identifier words that differ only in bits R136 does not read hold the same identifier. -/
theorem idOfWord_eq_of_and_eq {ide : Bool} {x y : Word}
    (h : if ide then x &&& 0x1FFFFFFF#32 = y &&& 0x1FFFFFFF#32 else x &&& 0x1FFC0000#32 = y &&& 0x1FFC0000#32) :
    idOfWord ide x = idOfWord ide y := by
  cases ide with
  | true => exact extractLsb'_eq_of_and_eq (by decide) h
  | false => exact congrArg (BitVec.setWidth 29) (extractLsb'_eq_of_and_eq (lo := 18) (len := 11) (by decide) h)

/-- Images that differ only in bits R135 to R138 do not read decode to the same Frame. -/
theorem frameDecode_eq_of_and_eq {m n : MailboxImage} (hcs : m.cs &&& 0x0F7FFFFF#32 = n.cs &&& 0x0F7FFFFF#32)
    (hid : if csIde m.cs then m.id &&& 0x1FFFFFFF#32 = n.id &&& 0x1FFFFFFF#32
      else m.id &&& 0x1FFC0000#32 = n.id &&& 0x1FFC0000#32)
    (hd0 : m.d0 = n.d0) (hd1 : m.d1 = n.d1) : frameDecode m = frameDecode n := by
  have hide : csIde m.cs = csIde n.cs := getLsbD_eq_of_and_eq (by decide) hcs
  have hsrr : csSrr m.cs = csSrr n.cs := getLsbD_eq_of_and_eq (by decide) hcs
  have hrtr : csRtr m.cs = csRtr n.cs := getLsbD_eq_of_and_eq (by decide) hcs
  have hcode : csCode m.cs = csCode n.cs := extractLsb'_eq_of_and_eq (by decide) hcs
  have hdlc : csDlc m.cs = csDlc n.cs := extractLsb'_eq_of_and_eq (by decide) hcs
  have hts : csTimestamp m.cs = csTimestamp n.cs := extractLsb'_eq_of_and_eq (by decide) hcs
  have hid' := idOfWord_eq_of_and_eq hid
  rw [hide] at hid'
  simp only [frameDecode, hid', hide, hsrr, hrtr, hcode, hdlc, hts, hd0, hd1]

/-- Settles O34: FDEC leaves the decoded Frame, and the two images decode to the same one. -/
theorem fdecIgnoresTheUndescribedBits : Obligations.FdecIgnoresTheUndescribedBits := by
  intro s u t v ht hv hcs hid hd0 hd1
  obtain rfl := Host.Outcome.next.inj ((exec_fdec s).symm.trans ht)
  obtain rfl := Host.Outcome.next.inj ((exec_fdec u).symm.trans hv)
  exact frameDecode_eq_of_and_eq hcs hid hd0 hd1

/-! ### Where encode puts the identifier -/

/-- A successful `frame_encode` had a legal dlc and gave the four words (R130 to R133). -/
theorem eq_encodedImage_of_frameEncode_eq_ok {id : BitVec 29} {ide : Bool} {dlc : Byte} {pay : Vector Byte 8} {code : BitVec 4}
    {m : MailboxImage} (h : frameEncode id ide dlc pay code = .ok m) : dlc.toNat ≤ 8 ∧ m = encodedImage id ide dlc pay code := by
  obtain hdlc | hdlc := le_or_gt dlc.toNat 8
  · rw [frameEncode_of_le hdlc] at h
    exact ⟨hdlc, (Except.ok.inj h).symm⟩
  · rw [frameEncode_of_lt hdlc] at h
    cases h

/-- Settles O35: the word of a successful encode is the image, and each clause is a field of it. -/
theorem identifierPlacementOnEncode : Obligations.IdentifierPlacementOnEncode := by
  intro id ide dlc pay code m hok
  obtain ⟨hdlc, rfl⟩ := eq_encodedImage_of_frameEncode_eq_ok hok
  refine ⟨?standard, ?extended, ?srr, ?dlc⟩
  case standard =>
    rintro rfl
    have hmask : ~~~0x1FFC0000#32 = BitVec.allOnes 3 ++ 0#11 ++ BitVec.allOnes 18 := by decide
    have hword : (encodedImage id false dlc pay code).id = 0#3 ++ id.extractLsb' 0 11 ++ 0#18 := rfl
    constructor
    · rw [hword, hmask, BitVec.and_append, BitVec.and_append, BitVec.zero_and, BitVec.and_zero, BitVec.zero_and]
      rfl
    · rw [hword, BitVec.extractLsb'_append_eq_of_le (Nat.le_refl 18)]
      exact BitVec.extractLsb'_append_eq_right
  case extended =>
    rintro rfl
    exact ⟨toNat_zero_append 3 id, csIde_encodedImage id true dlc pay code⟩
  case srr => exact (csSrr_encodedImage id ide dlc pay code).trans (csIde_encodedImage id ide dlc pay code).symm
  case dlc => exact (congrArg BitVec.toNat (csDlc_encodedImage id ide dlc pay code)).trans (toNat_extractLsb'_dlc hdlc)

end Sys2Proof.Machine

/-! PROOF. The J1939 unit's round trips (O40: R169) and a frame carried from one block to another (O41: R170). -/

namespace Sys2Proof.Machine

/-! ### The fields of an encoded identifier -/

section
variable (prio : Byte) (pgn : BitVec 18) (sa da : Byte)

/-- The two page bits of a PGN stand side by side in the identifier (R88, R161). -/
theorem encodedId_eq_append :
    encodedId prio pgn sa da =
      prio.extractLsb' 0 3 ++ pgn.extractLsb' 16 2 ++ pgnPf pgn ++ pduSpecific pgn da ++ sa := by
  have hpage : pgn.extractLsb' 17 1 ++ pgn.extractLsb' 16 1 = pgn.extractLsb' 16 2 :=
    BitVec.extractLsb'_append_extractLsb'_eq_extractLsb' rfl
  rw [encodedId, ← hpage, BitVec.append_assoc']
  rfl

theorem idSa_encodedId : idSa (encodedId prio pgn sa da) = sa :=
  BitVec.extractLsb'_append_eq_right

theorem idPs_encodedId : idPs (encodedId prio pgn sa da) = pduSpecific pgn da := by
  rw [idPs, encodedId_eq_append, BitVec.extractLsb'_append_eq_of_le (Nat.le_refl 8)]
  exact BitVec.extractLsb'_append_eq_right

theorem idPf_encodedId : idPf (encodedId prio pgn sa da) = pgnPf pgn := by
  rw [idPf, encodedId_eq_append]
  simp (disch := decide) only [BitVec.extractLsb'_append_eq_of_le]
  exact BitVec.extractLsb'_append_eq_right

/-- The page bits of an encoded identifier are those of the PGN (R161). -/
theorem page_encodedId : (encodedId prio pgn sa da).extractLsb' 24 2 = pgn.extractLsb' 16 2 := by
  rw [encodedId_eq_append]
  simp (disch := decide) only [BitVec.extractLsb'_append_eq_of_le]
  exact BitVec.extractLsb'_append_eq_right

theorem prio_encodedId : (encodedId prio pgn sa da).extractLsb' 26 3 = prio.extractLsb' 0 3 := by
  rw [encodedId_eq_append]
  simp (disch := decide) only [BitVec.extractLsb'_append_eq_of_le]
  exact BitVec.extractLsb'_eq_self

end

/-! ### Fields to identifier to fields -/

/-- A legal priority is its low three bits (R160). -/
theorem zero_append_extractLsb'_prio {prio : Byte} (h : prio.toNat ≤ 7) : 0#5 ++ prio.extractLsb' 0 3 = prio := by
  apply BitVec.eq_of_toNat_eq
  rw [toNat_zero_append, BitVec.extractLsb'_toNat, Nat.shiftRight_zero]
  exact Nat.mod_eq_of_lt (by omega)

/-- A PGN as its fields (R89), the page bits together. -/
theorem pgn_eq_append (pgn : BitVec 18) : pgn = pgn.extractLsb' 16 2 ++ pgnPf pgn ++ pgnGe pgn := by
  rw [pgnPf, pgnGe]
  repeat rw [BitVec.extractLsb'_append_extractLsb'_eq_extractLsb' (by decide)]
  exact BitVec.extractLsb'_eq_self.symm

/-- A PGN without its group extension, by the mask 0x3FF00 (R167, R169). -/
theorem pgn_and_mask (pgn : BitVec 18) : pgn &&& 0x3FF00#18 = pgn.extractLsb' 16 2 ++ pgnPf pgn ++ 0#8 := by
  have hmask : 0x3FF00#18 = BitVec.allOnes 2 ++ BitVec.allOnes 8 ++ 0#8 := by decide
  calc pgn &&& 0x3FF00#18
      = (pgn.extractLsb' 16 2 ++ pgnPf pgn ++ pgnGe pgn) &&& (BitVec.allOnes 2 ++ BitVec.allOnes 8 ++ 0#8) :=
        congrArg₂ (· &&& ·) (pgn_eq_append pgn) hmask
    _ = pgn.extractLsb' 16 2 ++ pgnPf pgn ++ 0#8 := by
        simp only [BitVec.and_append, BitVec.and_allOnes, BitVec.and_zero]

/-- What decode makes of an encoded identifier (R169 (a)): in PDU2 the destination is lost, in PDU1 the group extension. -/
theorem decodedFields_encodedId {prio : Byte} (h : prio.toNat ≤ 7) (pgn : BitVec 18) (sa da : Byte) :
    decodedFields (encodedId prio pgn sa da) =
      if 240 ≤ (pgnPf pgn).toNat then { prio := prio, pgn := pgn, sa := sa, da := 255#8 }
      else { prio := prio, pgn := pgn &&& 0x3FF00#18, sa := sa, da := da } := by
  rw [decodedFields, prio_encodedId, page_encodedId, idPf_encodedId, idPs_encodedId, idSa_encodedId,
    zero_append_extractLsb'_prio h, pduSpecific_eq_ite]
  by_cases hpdu1 : (pgnPf pgn).toNat < 240
  · simp only [if_pos hpdu1, if_neg hpdu1.not_ge, pgn_and_mask]
  · simp only [if_neg hpdu1, if_pos (Nat.le_of_not_lt hpdu1), ← pgn_eq_append]

/-! ### Identifier to fields to identifier -/

/-- An identifier as its fields (R88), the page bits together. -/
theorem id_eq_append (id : BitVec 29) :
    id = id.extractLsb' 26 3 ++ id.extractLsb' 24 2 ++ idPf id ++ idPs id ++ idSa id := by
  rw [idPf, idPs, idSa]
  repeat rw [BitVec.extractLsb'_append_extractLsb'_eq_extractLsb' (by decide)]
  exact BitVec.extractLsb'_eq_self.symm

theorem pgnPf_decodedFields (id : BitVec 29) : pgnPf (decodedFields id).pgn = idPf id := by
  rw [pgnPf, decodedFields, BitVec.extractLsb'_append_eq_of_le (Nat.le_refl 8)]
  exact BitVec.extractLsb'_append_eq_right

theorem page_decodedFields (id : BitVec 29) : (decodedFields id).pgn.extractLsb' 16 2 = id.extractLsb' 24 2 := by
  simp (disch := decide) only [decodedFields, BitVec.extractLsb'_append_eq_of_le]
  exact BitVec.extractLsb'_eq_self

/-- The PDU-specific byte survives as the destination in PDU1, as the group extension in PDU2 (R162, R167). -/
theorem pduSpecific_decodedFields (id : BitVec 29) :
    pduSpecific (decodedFields id).pgn (decodedFields id).da = idPs id := by
  have hge : pgnGe (decodedFields id).pgn = if (idPf id).toNat < 240 then 0#8 else idPs id :=
    BitVec.extractLsb'_append_eq_right
  rw [pduSpecific_eq_ite, pgnPf_decodedFields, hge, decodedFields]
  split_ifs <;> rfl

/-- Encoding the decoded fields gives the identifier back (R169 (b)). -/
theorem identifier_decodedFields (id : BitVec 29) : (decodedFields id).identifier = id := by
  have hprio : (decodedFields id).prio.extractLsb' 0 3 = id.extractLsb' 26 3 := BitVec.extractLsb'_append_eq_right
  have hsa : (decodedFields id).sa = idSa id := rfl
  rw [J1939Fields.identifier, encodedId_eq_append, hprio, page_decodedFields, pgnPf_decodedFields, pduSpecific_decodedFields, hsa]
  exact (id_eq_append id).symm

/-- A decoded priority is legal to encode (R160, R166). -/
theorem decodedFields_prio_le (id : BitVec 29) : (decodedFields id).prio.toNat ≤ 7 := by
  rw [decodedFields, toNat_zero_append]
  exact Nat.le_of_lt_succ (id.extractLsb' 26 3).isLt

/-- Settles O40: (a) and (b) are the two round trips above, and (c) follows from (b). -/
theorem j1939RoundTrips : Obligations.J1939RoundTrips := by
  refine ⟨?fieldsToFields, ?idToId, ?injective⟩
  case fieldsToFields =>
    intro prio pgn sa da dlc hprio hdlc
    refine ⟨_, j1939Encode_of_legal hprio hdlc pgn sa da, ?_⟩
    rw [j1939Decode_extended, decodedFields_encodedId hprio]
    rfl
  case idToId =>
    intro id dlc hdlc
    refine ⟨_, j1939Decode_extended id, ?_⟩
    rw [j1939Encode_of_legal (decodedFields_prio_le id) hdlc]
    exact congrArg Except.ok (identifier_decodedFields id)
  case injective =>
    intro id id' h
    rw [j1939Decode_extended, j1939Decode_extended] at h
    have hfields := Except.ok.inj h
    rw [← identifier_decodedFields id, hfields, identifier_decodedFields]

/-! ### From block to block -/

/-- The fields that a block makes of the image of an Extended Frame with an encoded identifier (R170). -/
theorem decodedFields_received {f : Frame} {j : J1939Fields} (h : j.prio.toNat ≤ 7) :
    decodedFields (frameDecode (f.withExtendedId j.identifier).image).id =
      if 240 ≤ (pgnPf j.pgn).toNat then { j with da := 255#8 } else { j with pgn := j.pgn &&& 0x3FF00#18 } := by
  have hid : (frameDecode (f.withExtendedId j.identifier).image).id = j.identifier :=
    frameDecode_encodedImage_id j.identifier true _ _
  rw [hid, J1939Fields.identifier, decodedFields_encodedId h]

/-- The transmitting side: JENC and FENC of a valid J1939Frame complete Ok and leave the image of the Extended Frame. -/
theorem exec_jenc_then_fenc {s : State} (hprio : s.regs.j.prio.toNat ≤ 7) (hdlc : s.regs.fr.ctl.dlc.toNat ≤ 8) :
    ∃ s₁ s₂, exec .jenc s = .next s₁ ∧ exec .fenc s₁ = .next s₂ ∧ s₁.regs.status.code = 0#4 ∧ s₂.regs.status.code = 0#4 ∧
      s₂.regs.mb = (s.regs.fr.withExtendedId s.regs.j.identifier).image :=
  ⟨_, _, exec_jenc_of_legal hprio hdlc, exec_fenc_of_le hdlc, rfl, rfl, rfl⟩

/-- The receiving side: FDEC and JDEC of an image with IDE set complete Ok and leave its Frame and that Frame's fields. -/
theorem exec_fdec_then_jdec (u : State) {m : MailboxImage} (hide : (frameDecode m).ctl.ide = true) :
    ∃ u₁ u₂, exec .fdec { u with regs := { u.regs with mb := m } } = .next u₁ ∧ exec .jdec u₁ = .next u₂ ∧
      u₁.regs.status.code = 0#4 ∧ u₂.regs.status.code = 0#4 ∧
      u₂.regs.fr = frameDecode m ∧ u₂.regs.j = decodedFields (frameDecode m).id :=
  ⟨_, _, exec_fdec _, exec_jdec_of_extended hide, rfl, rfl, rfl, rfl⟩

/-- Settles O41: the two sides run, and what arrives is the codec's round trip of the Frame and the unit's round trip of the fields. -/
theorem transmitThenReceiveGivesTheFrameBack : Obligations.TransmitThenReceiveGivesTheFrameBack := by
  intro s u hprio hdlc
  obtain ⟨s₁, s₂, hjenc, hfenc, hs₁, hs₂, hmb⟩ := exec_jenc_then_fenc hprio hdlc
  have hctl : (frameDecode s₂.regs.mb).ctl = { dlc := s.regs.fr.ctl.dlc, ide := true, code := s.regs.fr.ctl.code } := by
    rw [hmb]
    exact frameDecode_encodedImage_ctl _ true _ _ hdlc
  obtain ⟨u₁, u₂, hfdec, hjdec, hu₁, hu₂, hfr, hj⟩ := exec_fdec_then_jdec u (congrArg FrCtl.ide hctl)
  rw [hmb, decodedFields_received hprio] at hj
  refine ⟨s₁, s₂, u₁, u₂, hjenc, hfenc, hfdec, hjdec, hs₁, hs₂, hu₁, hu₂, ?prio, ?sa, ?dlc, ?payload, ?pgnAndDestination⟩
  case prio => rw [hj, apply_ite J1939Fields.prio, ite_self]
  case sa => rw [hj, apply_ite J1939Fields.sa, ite_self]
  case dlc => rw [hfr, hctl]
  case payload =>
    intro k hk
    rw [hfr, hmb]
    exact (frameDecode_encodedImage_pay _ true _ _ k).trans (if_pos hk)
  case pgnAndDestination =>
    split_ifs with hpdu2
    · rw [hj.trans (if_pos hpdu2)]
      exact ⟨rfl, rfl⟩
    · rw [hj.trans (if_neg hpdu2)]
      exact ⟨rfl, rfl⟩

end Sys2Proof.Machine

/-! PROOF. The host port, one cycle and a whole script: the step of a CMD write (O5: R63), a read in a reset cycle (O11: R74), the totality
of the step (O13: R190), a host write beside the results (O28: R234), what the host's view tells (O8: R20, R47), and the run of a script
against the spec's clock edges (O15: R70). -/

namespace Sys2Proof.Machine

/-! ### One step -/

/-- Settles O5: the cycle is a CMD write, and its command step runs the decoded command. -/
theorem stepRunsTheCommandWritten : Obligations.StepRunsTheCommandWritten := by
  intro s w rest i hs hdecode
  rw [step_of_cons hs, busCycle_command rfl rfl rfl rfl, commandStep_of_decode hdecode]
  rfl

/-- Settles O11: the record after a reset cycle is given by `busCycle_reset`. -/
theorem readInResetCycleReturnsTheOldValue : Obligations.ReadInResetCycleReturnsTheOldValue := by
  intro s t c rest hs hrst h
  rw [step_of_cons hs, busCycle_reset hrst] at h
  obtain rfl := Host.Outcome.next.inj h
  rfl

/-- Settles O13: an idle step answers the same state, and every bus cycle answers one with the rest of the list. -/
theorem everyStepAnswersANextState : Obligations.EveryStepAnswersANextState := by
  intro s
  cases hs : s.script with
  | nil => exact ⟨s, step_of_nil hs, hs⟩
  | cons c rest =>
    obtain ⟨t, hcycle, hscript⟩ := busCycle_script c (s.withScript rest)
    exact ⟨t, (step_of_cons hs).trans hcycle, hscript⟩

/-! ### What a host write leaves alone -/

section
variable (r : Regs) {x : Reg} (m : Word)

@[simp] theorem Regs.store_status (x : Reg) : (r.store x m).status = r.status := by
  cases x <;> rfl

@[simp] theorem Regs.store_rx (x : Reg) : (r.store x m).fr.rx = r.fr.rx := by
  cases x <;> rfl

theorem Regs.store_mb (h : x.index.toNat < 20 ∨ 23 < x.index.toNat) : (r.store x m).mb = r.mb := by
  cases x with
  | mbCs | mbId | mbD0 | mbD1 => exact absurd h (by decide)
  | _ => rfl

theorem Regs.store_fr (h : x.index.toNat < 8 ∨ 19 < x.index.toNat) : (r.store x m).fr = r.fr := by
  cases x with
  | frId | frCtl => exact absurd h (by decide)
  | pay k =>
    rw [pay_index_toNat] at h
    omega
  | _ => rfl

theorem Regs.store_j (h : x.index.toNat < 24) : (r.store x m).j = r.j := by
  cases x with
  | jPrio | jPgn | jSa | jDa => exact absurd h (by decide)
  | _ => rfl

end

section
variable (r : Regs) (i : BitVec 5) (v : Word)

/-- A host write keeps what the store in the register at its index keeps (R41, R40). -/
theorem writeIndex_keeps {α : Type} {f : Regs → α} (hstore : ∀ (x : Reg) (m : Word), i = x.index → f (r.store x m) = f r) :
    f (writeIndex r i v) = f r := by
  obtain ⟨x, rfl, -⟩ | ⟨-, hreserved⟩ := index_cases i
  · rw [writeIndex_index, hstore x _ rfl]
  · rw [(hreserved r).2]

@[simp] theorem writeIndex_status : (writeIndex r i v).status = r.status :=
  writeIndex_keeps r i v fun x m _ => r.store_status m x

@[simp] theorem writeIndex_rx : (writeIndex r i v).fr.rx = r.fr.rx :=
  writeIndex_keeps (f := fun q => q.fr.rx) r i v fun x m _ => r.store_rx m x

end

/-- Settles O28: the step writes the register at the index, and each clause is a group of registers that such a write leaves alone. -/
theorem operandWritesLeaveTheResultsAlone : Obligations.OperandWritesLeaveTheResultsAlone := by
  intro s t i v rest hi hs h
  rw [step_of_cons hs, busCycle_write rfl rfl rfl hi] at h
  obtain rfl := Host.Outcome.next.inj h
  refine ⟨writeIndex_status s.regs i v, writeIndex_tq s.regs i v, fun hmb => ?_, fun hfr => ?_, fun hj => ?_⟩
  · exact writeIndex_keeps s.regs i v fun x m hx => s.regs.store_mb m (hx ▸ hmb)
  · exact writeIndex_keeps s.regs i v fun x m hx => s.regs.store_fr m (hx ▸ hfr)
  · exact writeIndex_keeps s.regs i v fun x m hx => s.regs.store_j m (hx ▸ hj)

/-! ### The host's view -/

/-- Equal concatenations have equal fields. -/
theorem append_inj {m n : Nat} {x x' : BitVec m} {y y' : BitVec n} (h : x ++ y = x' ++ y') : x = x' ∧ y = y' :=
  ⟨by simpa only [BitVec.extractLsb'_append_eq_left] using congrArg (BitVec.extractLsb' n m) h,
    by simpa only [BitVec.extractLsb'_append_eq_right] using congrArg (BitVec.extractLsb' 0 n) h⟩

theorem ofBool_inj {a b : Bool} (h : BitVec.ofBool a = BitVec.ofBool b) : a = b := by
  revert a b
  decide

/-! The registers with fields show every field (R22, R26, R30, R31). -/

theorem Status.toWord_inj {x y : Status} (h : x.toWord = y.toWord) : x = y := by
  rw [Status.toWord_eq_append, Status.toWord_eq_append] at h
  obtain ⟨h, hcode⟩ := append_inj h
  obtain ⟨h, hlastop⟩ := append_inj h
  obtain ⟨-, hserr⟩ := append_inj h
  rw [Status.mk.injEq]
  exact ⟨hcode, hlastop, ofBool_inj hserr⟩

theorem TqPresc.toWord_inj {x y : TqPresc} (h : x.toWord = y.toWord) : x = y := by
  rw [TqPresc.toWord_eq_append, TqPresc.toWord_eq_append] at h
  obtain ⟨h, hpresc⟩ := append_inj h
  obtain ⟨h, -⟩ := append_inj h
  obtain ⟨h, hinexact⟩ := append_inj h
  obtain ⟨hcode, -⟩ := append_inj h
  rw [TqPresc.mk.injEq]
  exact ⟨hpresc, ofBool_inj hinexact, hcode⟩

theorem FrRx.toWord_inj {x y : FrRx} (h : x.toWord = y.toWord) : x = y := by
  rw [FrRx.toWord_eq_append, FrRx.toWord_eq_append] at h
  obtain ⟨h, hts⟩ := append_inj h
  obtain ⟨h, hrtr⟩ := append_inj h
  obtain ⟨-, hsrr⟩ := append_inj h
  rw [FrRx.mk.injEq]
  exact ⟨hts, ofBool_inj hrtr, ofBool_inj hsrr⟩

theorem FrCtl.toWord_inj {x y : FrCtl} (h : x.toWord = y.toWord) : x = y := by
  rw [← FrCtl.ofWord_toWord x, h, FrCtl.ofWord_toWord]

/-- A register of at most 32 bits shows its whole value. -/
theorem setWidth_inj {n : Nat} (hn : n ≤ 32) {x y : BitVec n} (h : x.setWidth 32 = y.setWidth 32) : x = y := by
  have hback := congrArg (BitVec.setWidth n) h
  rwa [BitVec.setWidth_setWidth_of_le x hn, BitVec.setWidth_setWidth_of_le y hn, BitVec.setWidth_eq, BitVec.setWidth_eq] at hback

/-- A register bank is what its registers show (R20). -/
theorem Regs.ext_get {r q : Regs} (h : ∀ x : Reg, r.get x = q.get x) : r = q := by
  have hstatus : r.status = q.status := Status.toWord_inj (h .status)
  have hpresc : r.tq.presc = q.tq.presc := TqPresc.toWord_inj (h .tqPresc)
  have hctl : r.fr.ctl = q.fr.ctl := FrCtl.toWord_inj (h .frCtl)
  have hrx : r.fr.rx = q.fr.rx := FrRx.toWord_inj (h .frRx)
  have hid : r.fr.id = q.fr.id := setWidth_inj (by decide) (h .frId)
  have hpay : r.fr.pay = q.fr.pay := Vector.ext fun k hk => setWidth_inj (n := 8) (by decide) (h (.pay ⟨k, hk⟩))
  have hprio : r.j.prio = q.j.prio := setWidth_inj (by decide) (h .jPrio)
  have hpgn : r.j.pgn = q.j.pgn := setWidth_inj (by decide) (h .jPgn)
  have hsa : r.j.sa = q.j.sa := setWidth_inj (by decide) (h .jSa)
  have hda : r.j.da = q.j.da := setWidth_inj (by decide) (h .jDa)
  rw [Regs.mk.injEq, TimingConfig.mk.injEq, Frame.mk.injEq, MailboxImage.mk.injEq, J1939Fields.mk.injEq]
  exact ⟨hstatus, h .clkHz, h .bitrate, ⟨h .tqRate, hpresc, h .tqLen, h .tqCode⟩, ⟨hid, hctl, hrx, hpay⟩,
    ⟨h .mbCs, h .mbId, h .mbD0, h .mbD1⟩, ⟨hprio, hpgn, hsa, hda⟩⟩

/-- Settles O8: every register is read at its index, and the registers make up the bank. -/
theorem hostViewDeterminesTheRegisters : Obligations.HostViewDeterminesTheRegisters := by
  intro r q h
  refine Regs.ext_get fun x => ?_
  rw [← readIndex_index, ← readIndex_index, h]

/-! ### A script against the spec's clock edges -/

/-- The host's view at an index is what the host reads there. -/
theorem view_toNat (r : Regs) (i : BitVec 5) : Spec.view r i.toNat = (readIndex r i).toNat := by
  rw [Spec.view, if_pos i.isLt, BitVec.ofNat_toNat, BitVec.setWidth_eq]

/-- The spec's masks are 32 bits wide (R20). -/
theorem lt_of_keptOnWrite {i : BitVec 5} {m : Nat} (hm : Spec.keptOnWrite i.toNat = some m) : m < 2 ^ 32 := by
  rw [keptOnWrite_eq] at hm
  obtain ⟨x, -, hm⟩ := Option.bind_eq_some_iff.mp hm
  obtain ⟨-, hm⟩ := Option.ite_none_right_eq_some.mp hm
  exact Option.some.inj hm ▸ x.keep.isLt

/-- A host write at an index that keeps the bits of `m` is the pseudocode's `x[i] <- v & m` (R41). -/
theorem view_writeIndex_of_kept (r : Regs) {i : BitVec 5} {m : Nat} (hm : Spec.keptOnWrite i.toNat = some m) (v : Word) :
    Spec.view (writeIndex r i v) = Spec.put (Spec.view r) i.toNat (Nat.land v.toNat m) := by
  funext k
  by_cases hk : k < 32
  · obtain ⟨j, rfl⟩ : ∃ j : BitVec 5, k = j.toNat := ⟨BitVec.ofNat 5 k, (Nat.mod_eq_of_lt hk).symm⟩
    rw [view_toNat]
    by_cases hj : j = i
    · rw [hj, readIndex_writeIndex_of_kept r hm, BitVec.toNat_and, BitVec.toNat_ofNat, Nat.mod_eq_of_lt (lt_of_keptOnWrite hm),
        Spec.put, if_pos rfl]
      rfl
    · rw [readIndex_writeIndex_of_ne r hj, put_of_ne (mt BitVec.eq_of_toNat_eq hj), view_toNat]
  · rw [view_of_reserved _ (by omega), put_of_ne (by omega), view_of_reserved _ (by omega)]

/-- Every bus cycle answers a state that reads as the clock edge of the pseudocode (R62, R63, R64, R74). -/
theorem busCycle_refines (c : Cycle) (s : State) :
    ∃ t, busCycle c s = .next t ∧ t.script = s.script ∧ Spec.view t.regs = Spec.clockEdge (Spec.view s.regs) c := by
  cases hr : c.rst with
  | true => exact ⟨_, busCycle_reset hr s, rfl, view_reset.trans (by simp [Spec.clockEdge, hr])⟩
  | false =>
    cases hv : c.valid with
    | false => exact ⟨s, busCycle_idle hr hv s, rfl, by simp [Spec.clockEdge, hr, hv]⟩
    | true =>
      cases hw : c.write with
      | false => exact ⟨_, busCycle_read hr hv hw s, rfl, by simp [Spec.clockEdge, hr, hw]⟩
      | true =>
        by_cases ha : c.addr = 0#5
        · obtain ⟨t, hcmd, hscript, -, hview⟩ := commandStepRefinesThePseudocode c.wdata s
          exact ⟨t, (busCycle_command hr hv hw ha s).trans hcmd, hscript, hview.trans (by simp [Spec.clockEdge, hr, hv, hw, ha])⟩
        · have haddr : c.addr.toNat ≠ 0 := mt (BitVec.eq_of_toNat_eq (y := 0#5)) ha
          refine ⟨_, busCycle_write hr hv hw ha s, rfl, ?_⟩
          cases hm : Spec.keptOnWrite c.addr.toNat with
          | some m => simp [view_writeIndex_of_kept s.regs hm, Spec.clockEdge, hr, hv, hw, haddr, hm]
          | none => simp [writeIndex_of_not_kept s.regs hm, Spec.clockEdge, hr, hv, hw, haddr, hm]

/-- A run through a list of cycles reads as the fold of its clock edges (R70). -/
theorem run_refines (cs : List Cycle) {s : State} (hs : s.script = cs) :
    ∃ t, Host.Core.run core cs.length s = .next t ∧ t.script = [] ∧
      Spec.view t.regs = cs.foldl Spec.clockEdge (Spec.view s.regs) := by
  induction cs generalizing s with
  | nil => exact ⟨s, rfl, hs, rfl⟩
  | cons c rest ih =>
    obtain ⟨s₁, hcycle, hscript, hview⟩ := busCycle_refines c (s.withScript rest)
    obtain ⟨t, hrun, hend, hfold⟩ := ih hscript
    refine ⟨t, ?_, hend, ?_⟩
    · exact (run_succ_of_step (M := core) ((step_of_cons hs).trans hcycle) rest.length).trans hrun
    · rw [hfold, hview]
      rfl

/-- Settles O15, by induction over the host's list: each step is its clock edge. -/
theorem scriptRunIsTheFoldOfItsCycles : Obligations.ScriptRunIsTheFoldOfItsCycles :=
  fun s => run_refines s.script rfl

end Sys2Proof.Machine

/-! PROOF. What a command writes and reads (O22, O23: R42). Every command but CLR is the completion of its body, so each fact is proved of
the bodies and carried through the completion. -/

namespace Sys2Proof.Machine

/-! ### What a command writes -/

/-- A body that succeeds writes only the results of its command (R42). CLR has no register that it leaves alone. -/
theorem bodyOf_get {i : Instr} (hclr : i ≠ .clr) {r q : Regs} (h : bodyOf i r = .ok q) {x : Reg}
    (hx : x.index.toNat ∉ Spec.resultIndices i) : q.get x = r.get x := by
  cases i with
  | clr => exact absurd rfl hclr
  | nop =>
    cases h
    rfl
  | timing =>
    obtain ⟨c, -, hb⟩ | ⟨-, hb⟩ := timingBody_cases r <;> cases hb.symm.trans h
    cases x with
    | tqRate | tqPresc | tqLen | tqCode => exact absurd (by decide) hx
    | _ => rfl
  | fenc =>
    obtain ⟨-, m, -, hb⟩ | ⟨-, hb⟩ := fencBody_cases r <;> cases hb.symm.trans h
    cases x with
    | mbCs | mbId | mbD0 | mbD1 => exact absurd (by decide) hx
    | _ => rfl
  | fdec =>
    cases h
    cases x with
    | frId | frCtl | frRx => exact absurd (by decide) hx
    | pay k => exact absurd (by revert k; decide) hx
    | _ => rfl
  | jenc =>
    obtain ⟨-, id, -, hb⟩ | ⟨-, hb⟩ := jencBody_cases r <;> cases hb.symm.trans h
    cases x with
    | frId | frCtl => exact absurd (by decide) hx
    | _ => rfl
  | jdec =>
    obtain ⟨-, f, -, hb⟩ | ⟨-, hb⟩ := jdecBody_cases r <;> cases hb.symm.trans h
    cases x with
    | jPrio | jPgn | jSa | jDa => exact absurd (by decide) hx
    | _ => rfl

/-- Writing STATUS leaves every other register alone. -/
theorem get_with_status (r : Regs) (st : Status) {x : Reg} (hx : x ≠ .status) : Regs.get { r with status := st } x = r.get x := by
  cases x with
  | status => exact absurd rfl hx
  | _ => rfl

/-- Writing STATUS leaves what the host reads at every other index (R22). -/
theorem readIndex_with_status (r : Regs) (st : Status) {k : BitVec 5} (hk : k ≠ 1#5) :
    readIndex { r with status := st } k = readIndex r k := by
  obtain ⟨x, rfl, -⟩ | ⟨-, hreserved⟩ := index_cases k
  · rw [readIndex_index, readIndex_index, get_with_status r st (mt (congrArg Reg.index) hk)]
  · rw [(hreserved _).1, (hreserved r).1]

/-- STATUS is a result of every command (R42). -/
theorem one_mem_resultIndices (i : Instr) : 1 ∈ Spec.resultIndices i := by
  cases i <;> decide

/-- An index that is not among a command's results reads as before (R42). -/
theorem exec_readIndex {i : Instr} {s t : State} (h : exec i s = .next t) {k : BitVec 5}
    (hk : k.toNat ∉ Spec.resultIndices i) : readIndex t.regs k = readIndex s.regs k := by
  have hclr : i ≠ .clr := by
    rintro rfl
    exact hk (List.mem_range.mpr k.isLt)
  rw [exec_eq_finishCommand hclr, finishCommand_eq_next_iff] at h
  rw [h, State.withRegs_regs]
  obtain ⟨x, rfl, -⟩ | ⟨-, hreserved⟩ := index_cases k
  · have hstatus : x ≠ .status := by
      rintro rfl
      exact hk (one_mem_resultIndices i)
    rw [readIndex_index, readIndex_index]
    exact completeCommand_keeps (f := (Regs.get · x)) (fun r st => get_with_status r st hstatus) _ _ fun q hq =>
      bodyOf_get hclr hq hk
  · rw [(hreserved _).1, (hreserved s.regs).1]

/-- After an error only STATUS may read otherwise (R202). -/
theorem exec_error_readIndex {i : Instr} {s t : State} (h : exec i s = .next t) (hcode : t.regs.status.code ≠ 0#4) {k : BitVec 5}
    (hk : k ≠ 1#5) : readIndex t.regs k = readIndex s.regs k := by
  rw [← commandStep_of_decode (decode_eq_ok_iff.mpr rfl)] at h
  rw [errorCompletionWritesStatusOnly _ s t h hcode]
  exact readIndex_with_status s.regs _ hk

/-- JENC writes one field of FR_CTL, and FR_ID, of the Frame (R164). -/
theorem exec_jenc_frame {s t : State} (h : exec .jenc s = .next t) :
    t.regs.fr.ctl.dlc = s.regs.fr.ctl.dlc ∧ t.regs.fr.ctl.code = s.regs.fr.ctl.code ∧ t.regs.fr.rx = s.regs.fr.rx ∧
      t.regs.fr.pay = s.regs.fr.pay := by
  obtain ⟨-, id, -, hb⟩ | ⟨-, hb⟩ := jencBody_cases s.regs <;>
    · rw [exec, execJenc, hb, finishCommand_eq_next_iff] at h
      subst h
      exact ⟨rfl, rfl, rfl, rfl⟩

/-- Settles O22: a command changes the registers only, and each clause about them is a frame above. -/
theorem commandsWriteOnlyTheirResults : Obligations.CommandsWriteOnlyTheirResults := by
  intro i s t h
  obtain ⟨r, hr⟩ := exec_eq_withRegs i s
  obtain rfl := Host.Outcome.next.inj (hr.symm.trans h)
  refine ⟨rfl, rfl, fun k => exec_readIndex h, fun hcode k => exec_error_readIndex h hcode, ?_⟩
  rintro rfl
  exact exec_jenc_frame h

/-! ### What a command reads -/

/-- No body raises the code Ok (R201). -/
theorem ne_ok_of_bodyOf_eq_error {i : Instr} {r : Regs} {c : ResultCode} (h : bodyOf i r = .error c) : c ≠ .ok := by
  have herror : commandBody (encode i) r = .error c := by
    rw [commandBody, decode_eq_ok_iff.mpr rfl]
    exact h
  rintro rfl
  exact (eq_of_commandBody_eq_error herror).elim nofun nofun

/-- Two completions whose results raise the same error, or make the same part `f` of their writes, leave the same code and, if Ok, the
same `f`. -/
theorem completeCommand_agree {α : Type} {f : Regs → α} (hstatus : ∀ (r : Regs) (st : Status), f { r with status := st } = f r)
    (op : BitVec 4) (r p : Regs) {res res' : Except ResultCode Regs} (hagree : res.map f = res'.map f)
    (hne : ∀ c, res = .error c → c ≠ .ok) :
    (completeCommand op r res).status.code = (completeCommand op p res').status.code ∧
      ((completeCommand op r res).status.code = 0#4 → f (completeCommand op r res) = f (completeCommand op p res')) := by
  cases res with
  | ok q =>
    cases res' with
    | ok q' => exact ⟨rfl, fun _ => (hstatus q _).trans ((Except.ok.inj hagree).trans (hstatus q' _).symm)⟩
    | error c => cases hagree
  | error c =>
    cases res' with
    | ok q' => cases hagree
    | error d =>
      obtain rfl := Except.error.inj hagree
      exact ⟨rfl, fun hzero => absurd (ResultCode.number_inj (d := .ok).mp hzero) (hne c rfl)⟩

/-- Two states on which a command's bodies agree, in the error or in the part `f` of their writes, complete alike (R42). -/
theorem exec_agree {α : Type} {f : Regs → α} (hstatus : ∀ (r : Regs) (st : Status), f { r with status := st } = f r)
    (i : Instr) (hclr : i ≠ .clr) {s u t v : State} (hbody : (bodyOf i s.regs).map f = (bodyOf i u.regs).map f)
    (hs : exec i s = .next t) (hu : exec i u = .next v) :
    t.regs.status.code = v.regs.status.code ∧ (t.regs.status.code = 0#4 → f t.regs = f v.regs) := by
  rw [exec_eq_finishCommand hclr, finishCommand_eq_next_iff] at hs hu
  subst hs hu
  exact completeCommand_agree hstatus _ _ _ hbody fun _ => ne_ok_of_bodyOf_eq_error

/-- The results of JENC: FR_ID and FR_CTL.ide (R42, R164). -/
def Regs.idIde (r : Regs) : BitVec 29 × Bool := (r.fr.id, r.fr.ctl.ide)

/-! The results of a body are the unit's answer to the operands it reads (R115, R134, R164, R168). -/

section
variable (r : Regs)

theorem map_tq_timingBody : (timingBody r).map Regs.tq = computeTiming r.clkHz r.bitrate := by
  unfold timingBody
  cases computeTiming r.clkHz r.bitrate <;> rfl

theorem map_mb_fencBody :
    (fencBody r).map Regs.mb = frameEncode r.fr.id r.fr.ctl.ide r.fr.ctl.dlc r.fr.pay r.fr.ctl.code := by
  unfold fencBody
  cases frameEncode r.fr.id r.fr.ctl.ide r.fr.ctl.dlc r.fr.pay r.fr.ctl.code <;> rfl

theorem map_idIde_jencBody :
    (jencBody r).map Regs.idIde =
      (j1939Encode r.j.prio r.j.pgn r.j.sa r.j.da r.fr.ctl.dlc).map fun id => (id, true) := by
  unfold jencBody
  cases j1939Encode r.j.prio r.j.pgn r.j.sa r.j.da r.fr.ctl.dlc <;> rfl

theorem map_j_jdecBody : (jdecBody r).map Regs.j = j1939Decode r.fr.id r.fr.ctl.ide := by
  unfold jdecBody
  cases j1939Decode r.fr.id r.fr.ctl.ide <;> rfl

end

/-- Settles O23: on equal operands the bodies agree in their error or in their results, so the commands do. -/
theorem commandsReadOnlyTheirOperands : Obligations.CommandsReadOnlyTheirOperands := by
  intro s u t v
  refine ⟨?timing, ?fenc, ?fdec, ?jenc, ?jdec⟩
  case timing =>
    intro hclk hbps
    refine exec_agree (f := Regs.tq) (fun _ _ => rfl) .timing nofun ?_
    rw [bodyOf, map_tq_timingBody, map_tq_timingBody, hclk, hbps]
  case fenc =>
    intro hid hctl hpay
    refine exec_agree (f := Regs.mb) (fun _ _ => rfl) .fenc nofun ?_
    rw [bodyOf, map_mb_fencBody, map_mb_fencBody, hid, hctl, hpay]
  case fdec =>
    intro hmb hs hu
    have hbody : (bodyOf .fdec s.regs).map Regs.fr = (bodyOf .fdec u.regs).map Regs.fr :=
      congrArg (fun m => Except.ok (frameDecode m)) hmb
    obtain ⟨hcode, hfr⟩ := exec_agree (f := Regs.fr) (fun _ _ => rfl) .fdec nofun hbody hs hu
    refine ⟨hcode, hfr ?_⟩
    rw [exec_fdec] at hs
    obtain rfl := Host.Outcome.next.inj hs
    rfl
  case jenc =>
    intro hj hdlc hs hu
    have hbody : (bodyOf .jenc s.regs).map Regs.idIde = (bodyOf .jenc u.regs).map Regs.idIde := by
      rw [bodyOf, map_idIde_jencBody, map_idIde_jencBody, hj, hdlc]
    obtain ⟨hcode, hresults⟩ := exec_agree (f := Regs.idIde) (fun _ _ => rfl) .jenc nofun hbody hs hu
    exact ⟨hcode, fun hok => Prod.mk.inj (hresults hok)⟩
  case jdec =>
    intro hid hide
    refine exec_agree (f := Regs.j) (fun _ _ => rfl) .jdec nofun ?_
    rw [bodyOf, map_j_jdecBody, map_j_jdecBody, hid, hide]

end Sys2Proof.Machine

/-! PROOF. The receive side (O27: R31), STATUS after a command and over a run (O19, O20, O21: R203, R22, R207), and the invariant of the
block (O24, O25). -/

namespace Sys2Proof.Machine

/-- A word with a result to complete is the encoding of a command whose body gives it (R190). -/
theorem exists_bodyOf_of_commandBody_eq_ok {w : Word} {r q : Regs} (h : commandBody w r = .ok q) :
    ∃ i, w = encode i ∧ bodyOf i r = .ok q := by
  cases hd : decode w with
  | error e =>
    rw [commandBody, hd] at h
    cases h
  | ok i =>
    rw [commandBody, hd] at h
    exact ⟨i, eq_encode_of_decode hd, h⟩

/-! ### The receive side -/

/-- Every body but FDEC's and CLR's leaves FR_RX alone: index 10 is not among the results (R42). -/
theorem bodyOf_rx {i : Instr} (hfdec : i ≠ .fdec) (hclr : i ≠ .clr) {r q : Regs} (h : bodyOf i r = .ok q) : q.fr.rx = r.fr.rx := by
  refine FrRx.toWord_inj (bodyOf_get hclr h (x := .frRx) ?_)
  cases i with
  | fdec => exact absurd rfl hfdec
  | clr => exact absurd rfl hclr
  | _ => decide

/-- A command step that changes FR_RX is the one of FDEC's word or of CLR's (R31, R193). -/
theorem word_of_commandStep_rx_ne {w : Word} {s t : State} (h : commandStep w s = .next t) (hne : t.regs.fr.rx ≠ s.regs.fr.rx) :
    w = encode .fdec ∨ w = encode .clr := by
  obtain ⟨q, hq, rfl⟩ | ⟨c, -, rfl⟩ | ⟨hw, -, -⟩ := commandStep_cases h
  · obtain ⟨i, rfl, hi⟩ := exists_bodyOf_of_commandBody_eq_ok hq
    by_contra hword
    obtain ⟨hfdec, hclr⟩ := not_or.mp hword
    have hrx : q.fr.rx = s.regs.fr.rx := bodyOf_rx (mt (congrArg encode) hfdec) (mt (congrArg encode) hclr) hi
    exact hne hrx
  · exact absurd rfl hne
  · exact .inr hw

/-- Settles O27, by the kinds of bus cycle: all but a reset and a CMD write keep FR_RX, and a CMD write keeps it for every word but the
two. -/
theorem onlyFdecClrAndResetChangeTheReceiveSide : Obligations.OnlyFdecClrAndResetChangeTheReceiveSide := by
  intro s t h hne
  obtain ⟨-, rfl⟩ | ⟨c, rest, hs, hcycle⟩ := step_cases h
  · exact absurd rfl hne
  refine ⟨c, rest, hs, ?_⟩
  obtain ⟨hrst, -, -⟩ | ⟨-, -, rfl⟩ | ⟨-, -, -, rfl⟩ | ⟨-, -, -, -, rfl⟩ | ⟨-, hvalid, hwrite, haddr, hcmd⟩ := hcycle
  · exact .inl hrst
  · exact absurd rfl hne
  · exact absurd rfl hne
  · exact absurd (writeIndex_rx s.regs c.addr c.wdata) hne
  · exact .inr ⟨hvalid, hwrite, haddr, word_of_commandStep_rx_ne hcmd hne⟩

/-! ### STATUS after a command -/

/-- No word raises the code Ok (R201). -/
theorem number_ne_zero_of_commandBody_eq_error {w : Word} {r : Regs} {c : ResultCode} (h : commandBody w r = .error c) :
    c.number ≠ 0#4 := by
  obtain rfl | rfl := eq_of_commandBody_eq_error h <;> decide

/-- Settles O19: of the three ends of a command step, only the Ok completion has the code 0 and a word other than CLR's. -/
theorem successKeepsTheStickyError : Obligations.SuccessKeepsTheStickyError := by
  intro w s t h hcode hclr
  obtain ⟨q, -, rfl⟩ | ⟨c, hc, rfl⟩ | ⟨hw, -, -⟩ := commandStep_cases h
  · exact ⟨rfl, rfl⟩
  · exact absurd hcode (number_ne_zero_of_commandBody_eq_error hc)
  · exact absurd hw hclr

/-! ### The sticky error over a run -/

/-- A cycle that neither resets the block nor writes CLR's word to CMD (R22, R207). -/
def Cycle.KeepsStickyError (c : Cycle) : Prop :=
  c.rst = false ∧ ¬(c.valid = true ∧ c.write = true ∧ c.addr = 0#5 ∧ c.wdata = 6#32)

/-- A step without reset and CLR fails, and sets the sticky error, or it keeps that flag and leaves the code as it was or 0 (R202, R203). -/
theorem step_status {s t : State} (h : step s = .next t)
    (hkeeps : ∀ c rest, s.script = c :: rest → c.KeepsStickyError) :
    t.regs.status.serr = true ∨
      (t.regs.status.serr = s.regs.status.serr ∧ (t.regs.status.code = s.regs.status.code ∨ t.regs.status.code = 0#4)) := by
  obtain ⟨-, rfl⟩ | ⟨c, rest, hs, hcycle⟩ := step_cases h
  · exact .inr ⟨rfl, .inl rfl⟩
  obtain ⟨hrst, hclr⟩ := hkeeps c rest hs
  obtain ⟨hreset, -, -⟩ | ⟨-, -, rfl⟩ | ⟨-, -, -, rfl⟩ | ⟨-, -, -, -, rfl⟩ | ⟨-, hvalid, hwrite, haddr, hcmd⟩ := hcycle
  · cases hrst.symm.trans hreset
  · exact .inr ⟨rfl, .inl rfl⟩
  · exact .inr ⟨rfl, .inl rfl⟩
  · exact .inr ⟨by simp, .inl (by simp)⟩
  · obtain ⟨q, -, rfl⟩ | ⟨e, -, rfl⟩ | ⟨hw, -, -⟩ := commandStep_cases hcmd
    · exact .inr ⟨rfl, .inr rfl⟩
    · exact .inl rfl
    · exact absurd ⟨hvalid, hwrite, haddr, hw⟩ hclr

/-- Settles O20: without reset and CLR the step would leave the sticky error set. -/
theorem onlyResetAndClrClearTheStickyError : Obligations.OnlyResetAndClrClearTheStickyError := by
  intro s t h hset hclear
  by_contra hnone
  have hkeeps : ∀ c rest, s.script = c :: rest → c.KeepsStickyError := fun c rest hs =>
    ⟨Bool.eq_false_iff.mpr fun hrst => hnone ⟨c, rest, hs, .inl hrst⟩, fun hclr => hnone ⟨c, rest, hs, .inr hclr⟩⟩
  obtain hserr | ⟨hserr, -⟩ := step_status h hkeeps
  · cases hclear.symm.trans hserr
  · cases hclear.symm.trans (hserr.trans hset)

/-- The first cycle of a list without reset and CLR, and the cycles after it. -/
theorem keepsStickyError_of_take_succ {cs : List Cycle} {n : Nat} (h : ∀ c ∈ cs.take (n + 1), c.KeepsStickyError) :
    (∀ c rest, cs = c :: rest → c.KeepsStickyError) ∧ ∀ c ∈ cs.tail.take n, c.KeepsStickyError := by
  cases cs with
  | nil => simp
  | cons d ds =>
    rw [List.take_succ_cons, List.forall_mem_cons] at h
    obtain ⟨hd, hds⟩ := h
    refine ⟨?_, hds⟩
    rintro c rest ⟨⟩
    exact hd

/-- A run of `n + 1` steps is a step and a run of `n`. -/
theorem run_succ_cases {n : Nat} {s t : State} (h : Host.Core.run core (n + 1) s = .next t) :
    ∃ s₁ : State, step s = .next s₁ ∧ s₁.script = s.script.tail ∧ Host.Core.run core n s₁ = .next t := by
  obtain ⟨s₁, hstep, hscript⟩ := everyStepAnswersANextState s
  exact ⟨s₁, hstep, hscript, (run_succ_of_step (M := core) hstep n).symm.trans h⟩

/-- The sticky error, once set, stays set over cycles without reset and CLR (R22). -/
theorem run_keeps_serr {n : Nat} {s t : State} (hset : s.regs.status.serr = true)
    (hkeeps : ∀ c ∈ s.script.take n, c.KeepsStickyError) (h : Host.Core.run core n s = .next t) :
    t.regs.status.serr = true := by
  induction n generalizing s with
  | zero =>
    obtain rfl := Host.Outcome.next.inj h
    exact hset
  | succ n ih =>
    obtain ⟨s₁, hstep, hscript, hrun⟩ := run_succ_cases h
    obtain ⟨hfirst, hrest⟩ := keepsStickyError_of_take_succ hkeeps
    rw [← hscript] at hrest
    obtain hserr | ⟨hserr, -⟩ := step_status hstep hfirst
    · exact ih hserr hrest hrun
    · exact ih (hserr.trans hset) hrest hrun

/-- Settles O21, by induction over the cycles before the one asked about: a first step that fails sets the sticky error for good, so it
leaves the flag clear and the code 0, and the rest of the run starts from such a state. -/
theorem clearStickyErrorMeansNoCommandFailed : Obligations.ClearStickyErrorMeansNoCommandFailed := by
  intro s t n hserr hcode hkeeps h hclear m hm u hu
  induction m generalizing s n with
  | zero =>
    obtain rfl := Host.Outcome.next.inj hu
    exact ⟨hcode, hserr⟩
  | succ m ih =>
    obtain ⟨n, rfl⟩ : ∃ k, n = k + 1 := Nat.exists_eq_succ_of_ne_zero (by omega)
    obtain ⟨s₁, hstep, hscript, hrun⟩ := run_succ_cases h
    have hu₁ : Host.Core.run core m s₁ = .next u := (run_succ_of_step (M := core) hstep m).symm.trans hu
    obtain ⟨hfirst, hrest⟩ := keepsStickyError_of_take_succ hkeeps
    rw [← hscript] at hrest
    obtain hset | ⟨hserr₁, hcode₁⟩ := step_status hstep hfirst
    · cases hclear.symm.trans (run_keeps_serr hset hrest hrun)
    · rw [hcode, or_self] at hcode₁
      exact ih s₁ n (hserr₁.trans hserr) hcode₁ hrest hrun (Nat.le_of_succ_le_succ hm) hu₁

/-! ### The invariant -/

/-- The registers of reset, which CLR leaves too, meet the invariant (R230, R231). -/
theorem blockInv_reset : StatusLegal Regs.reset.status ∧ (Regs.reset.tq = Regs.reset.tq ∨ TimingValid Regs.reset.tq) :=
  ⟨.inl ⟨rfl, by decide⟩, .inl rfl⟩

/-- Settles O24: the reset state holds the registers of reset. -/
theorem invariantHoldsAtReset : Obligations.InvariantHoldsAtReset := blockInv_reset

/-- A word that completes with Ok is a command's; but for CLR's its opcode is below 6 (R81). -/
theorem opcodeField_lt_six {w : Word} {r q : Regs} (h : commandBody w r = .ok q) (hclr : w ≠ encode .clr) :
    (opcodeField w).toNat < 6 := by
  obtain ⟨i, rfl, -⟩ := exists_bodyOf_of_commandBody_eq_ok h
  cases i with
  | clr => exact absurd rfl hclr
  | _ => decide

/-- Error is raised by JDEC alone (R201). -/
theorem eq_encode_jdec_of_commandBody_eq_error {w : Word} {r : Regs} (h : commandBody w r = .error .error) : w = encode .jdec := by
  rw [commandBody_eq_error_iff] at h
  simp only [reduceCtorEq, false_and, and_false, false_or] at h
  exact h.1

/-- Every command step leaves one of the outcomes of R200 to R202 in STATUS. -/
theorem commandStep_statusLegal {w : Word} {s t : State} (h : commandStep w s = .next t) : StatusLegal t.regs.status := by
  by_cases hclr : w = encode .clr
  · obtain rfl := hclr
    obtain rfl := Host.Outcome.next.inj h
    exact blockInv_reset.1
  · obtain ⟨q, hq, rfl⟩ | ⟨c, hc, rfl⟩ | ⟨hw, -, -⟩ := commandStep_cases h
    · exact .inl ⟨rfl, opcodeField_lt_six hq hclr⟩
    · obtain rfl | rfl := eq_of_commandBody_eq_error hc
      · exact .inr (.inl ⟨rfl, rfl⟩)
      · obtain rfl := eq_encode_jdec_of_commandBody_eq_error hc
        exact .inr (.inr ⟨rfl, rfl, rfl⟩)
    · exact absurd hw hclr

/-- TQ_PRESC.presc of a bit rate in range is the prescaler (R111). -/
theorem timingConfigOf_presc {clk bps : Word} (h : TimingInRange clk bps) :
    (timingConfigOf clk bps).presc.presc.toNat = prescaler clk bps := by
  obtain ⟨-, -, -, hle⟩ := (timingInRange_iff clk bps).mp h
  exact Nat.mod_eq_of_lt (hle.trans_lt (by decide))

/-- TQ_PRESC.presc_code of a bit rate in range is the prescaler minus one (R113). -/
theorem timingConfigOf_prescCode {clk bps : Word} (h : TimingInRange clk bps) :
    (timingConfigOf clk bps).presc.prescCode.toNat + 1 = prescaler clk bps := by
  obtain ⟨-, -, hne, hle⟩ := (timingInRange_iff clk bps).mp h
  have hcode : (timingConfigOf clk bps).presc.prescCode.toNat = prescaler clk bps - 1 :=
    Nat.mod_eq_of_lt (show prescaler clk bps - 1 < 2 ^ 8 by omega)
  omega

/-- The TimingConfig of a bit rate in range is valid (R116 (a)). -/
theorem timingValid_timingConfigOf {clk bps : Word} (h : TimingInRange clk bps) : TimingValid (timingConfigOf clk bps) := by
  obtain ⟨-, hbps, hne, hle⟩ := (timingInRange_iff clk bps).mp h
  have hreach : 16 * bps.toNat * prescaler clk bps < 2 ^ 32 :=
    calc 16 * bps.toNat * prescaler clk bps = prescaler clk bps * (bps.toNat * 16) := by ring
      _ ≤ clk.toNat := Nat.div_mul_le_self _ _
      _ < 2 ^ 32 := clk.isLt
  rw [TimingValid, timingConfigOf_presc h]
  exact ⟨⟨Nat.one_le_iff_ne_zero.mpr hne, hle⟩, timingConfigOf_prescCode h, rfl, rfl, BitVec.toNat_pos_of_ne_zero hbps, hreach⟩

/-- A command step keeps the TimingConfig, resets it, or makes a valid one (R10, R115). -/
theorem commandStep_tq {w : Word} {s t : State} (h : commandStep w s = .next t) :
    t.regs.tq = s.regs.tq ∨ t.regs.tq = Regs.reset.tq ∨ TimingValid t.regs.tq := by
  by_cases hne : t.regs.tq = s.regs.tq
  · exact .inl hne
  obtain rfl | rfl := word_of_commandStep_tq_ne h hne
  · by_cases hrange : TimingInRange s.regs.clkHz s.regs.bitrate
    · obtain rfl := Host.Outcome.next.inj ((exec_timing_of_inRange hrange).symm.trans h)
      exact .inr (.inr (timingValid_timingConfigOf hrange))
    · obtain rfl := Host.Outcome.next.inj ((exec_timing_of_not_inRange hrange).symm.trans h)
      exact .inl rfl
  · obtain rfl := Host.Outcome.next.inj h
    exact .inr (.inl rfl)

/-- Settles O25, by the kinds of bus cycle: only a reset and a CMD write touch STATUS or the TimingConfig. -/
theorem stepKeepsTheInvariant : Obligations.StepKeepsTheInvariant := by
  intro s t hinv h
  obtain ⟨-, rfl⟩ | ⟨c, rest, hs, hcycle⟩ := step_cases h
  · exact hinv
  obtain ⟨hstatus, htq⟩ := hinv
  obtain ⟨-, hreset, -⟩ | ⟨-, -, rfl⟩ | ⟨-, -, -, rfl⟩ | ⟨-, -, -, -, rfl⟩ | ⟨-, -, -, -, hcmd⟩ := hcycle
  · rw [BlockInv, hreset]
    exact blockInv_reset
  · exact ⟨hstatus, htq⟩
  · exact ⟨hstatus, htq⟩
  · rw [BlockInv, State.withRegs_regs, writeIndex_status, writeIndex_tq]
    exact ⟨hstatus, htq⟩
  · refine ⟨commandStep_statusLegal hcmd, ?_⟩
    obtain hkept | hnew := commandStep_tq hcmd
    · rw [hkept]
      exact htq
    · exact hnew

end Sys2Proof.Machine

/-! PROOF. The laws of a successful TIMING (O31: R116). -/

namespace Sys2Proof.Machine

/-- A TIMING that leaves the code 0 had operands in range, and leaves their TimingConfig (R115). -/
theorem exec_timing_eq_ok {s t : State} (h : exec .timing s = .next t) (hcode : t.regs.status.code = 0#4) :
    TimingInRange s.regs.clkHz s.regs.bitrate ∧ t.regs.tq = timingConfigOf s.regs.clkHz s.regs.bitrate := by
  by_cases hrange : TimingInRange s.regs.clkHz s.regs.bitrate
  · obtain rfl := Host.Outcome.next.inj ((exec_timing_of_inRange hrange).symm.trans h)
    exact ⟨hrange, rfl⟩
  · obtain rfl := Host.Outcome.next.inj ((exec_timing_of_not_inRange hrange).symm.trans h)
    exact absurd hcode (show ¬(1#4 = 0#4) by decide)

/-- The clock lies in the interval of its prescaler (R111, R116 (b)). -/
theorem prescaler_interval (clk : Word) {bps : Word} (h : bps ≠ 0#32) :
    prescaler clk bps * 16 * bps.toNat ≤ clk.toNat ∧ clk.toNat < (prescaler clk bps + 1) * 16 * bps.toNat := by
  have hle : prescaler clk bps * (bps.toNat * 16) ≤ clk.toNat := Nat.div_mul_le_self _ _
  have hlt : clk.toNat < (prescaler clk bps + 1) * (bps.toNat * 16) := by
    rw [Nat.mul_comm]
    exact Nat.lt_mul_div_succ _ (prescalerStep_pos h)
  constructor <;> linarith

/-- The clock is the product of its prescaler and 16 times the rate exactly when the division leaves nothing over (R114). -/
theorem mul_prescaler_eq_iff (clk bps : Word) :
    clk.toNat = bps.toNat * (16 * prescaler clk bps) ↔ clk.toNat % (bps.toNat * 16) = 0 := by
  have hdiv : bps.toNat * 16 * prescaler clk bps + clk.toNat % (bps.toNat * 16) = clk.toNat := Nat.div_add_mod _ _
  rw [← Nat.mul_assoc]
  omega

/-- The achieved rate of R116 (f): at least the requested one, equal to it for an exact multiple, below it times (p+1)/p. -/
theorem achievedRate_laws {p bps clk : ℕ} (hp : 1 ≤ p) (hle : p * 16 * bps ≤ clk) (hlt : clk < (p + 1) * 16 * bps) :
    (bps : ℚ) ≤ (clk : ℚ) / (16 * p) ∧ ((clk : ℚ) / (16 * p) = bps ↔ clk = bps * (16 * p)) ∧
      (clk : ℚ) / (16 * p) < bps * (p + 1) / p := by
  have hpos : (0 : ℚ) < p := by exact_mod_cast hp
  have hle' : (p : ℚ) * 16 * bps ≤ clk := by exact_mod_cast hle
  have hlt' : (clk : ℚ) < (p + 1) * 16 * bps := by exact_mod_cast hlt
  refine ⟨?_, ?_, ?_⟩
  · rw [le_div_iff₀ (by positivity)]
    linarith
  · rw [div_eq_iff (by positivity)]
    exact_mod_cast Iff.rfl
  · calc (clk : ℚ) / (16 * p) < (p + 1) * 16 * bps / (16 * p) := by gcongr
      _ = bps * (p + 1) / p := by
        field_simp

/-- Settles O31: with the prescaler as factor, the interval is that of the division, the lengths are the fixed ones, and the rate laws
follow from the interval. -/
theorem timingResultLaws : Obligations.TimingResultLaws := by
  intro s t h hcode
  obtain ⟨hrange, htq⟩ := exec_timing_eq_ok h hcode
  obtain ⟨-, hbps, hne, hle⟩ := (timingInRange_iff _ _).mp hrange
  obtain ⟨hmin, hmax⟩ := prescaler_interval s.regs.clkHz hbps
  have hp := Nat.one_le_iff_ne_zero.mpr hne
  obtain ⟨hatLeast, heq, hbelow⟩ := achievedRate_laws hp hmin hmax
  rw [mul_prescaler_eq_iff] at heq
  have hlen : t.regs.tq.len = 0x04040803#32 := congrArg TimingConfig.len htq
  rw [hlen, htq]
  refine ⟨prescaler s.regs.clkHz s.regs.bitrate, _, _, 3, 8, 4, 4, (timingConfigOf_presc hrange).symm, rfl, rfl, rfl, rfl, rfl, by decide,
    ⟨hp, hle⟩, ⟨hmin, hmax⟩, rfl, rfl, by decide, ⟨hatLeast, heq.trans ?_, hbelow⟩, rfl⟩
  exact (decide_eq_false_iff_not.trans not_not).symm

end Sys2Proof.Machine
